-- ==== Sys2Proof/Word.lean ====
section
/-!
DEFINITION. The bit vectors of the block: every value is an unsigned vector of a stated width, bit 0 the least
significant (00_scope.md R7).
-/

namespace Sys2Proof

/-- The 32-bit operation word `w` (30_encoding.md R48). It is a value, not a sequence of bytes (20_memory.md R35). -/
abbrev Word := BitVec 32

/-- A byte: `CHK`, `CUR`, `ARG`, `RES` and each byte of a result frame. -/
abbrev Byte := BitVec 8

/-- The 16-bit raw value `RAW`. -/
abbrev Raw := BitVec 16

/-- The 24-bit vector of the CRC: the initial remainder, `rem`, `div`, `REM`. -/
abbrev Rem := BitVec 24

/-- A 24-bit word of the read space (20_memory.md R31). -/
abbrev ReadWord := BitVec 24

end Sys2Proof
end

