-- ==== Sys2Proof/Config.lean ====
section
/-!
DEFINITION. The constants the document fixes (00_scope.md R4) and the parameters it leaves open (R5).
-/

namespace Sys2Proof

/-- `DIVISOR0`, the initial divisor of the CRC (R4, R66). -/
def Config.divisor0 : Nat := 0x988000

/-- `NITER`, the number of iterations, bit 23 down to bit 8 (R4, R66). -/
def Config.niter : Nat := 16

/-- `RES_MASK`, the two resolution bits 7 and 0 (R4, R45). -/
def Config.resMask : Byte := 0x81

/-- `KEEP_MASK`, the complement of `RES_MASK` in 8 bits; a keep-mask applied by AND (R4, R45, 90_conflicts.md C2). -/
def Config.keepMask : Byte := 0x7E

/-- `HTR_MASK`, the heater bit 2 (R4, R45). -/
def Config.htrMask : Byte := 0x04

/-- `OTPD_MASK`, the OTP-reload-disabled bit 1 (R4, R45). -/
def Config.otpdMask : Byte := 0x02

/-- `EOB_BIT`, the number of the end-of-battery bit (R4, R45). -/
def Config.eobBit : Nat := 6

/-- `FRAME_LEN`, the bytes of a result frame (R4, 20_memory.md R36). -/
def Config.frameLen : Nat := 3

/-- The value of the sensor's user register after the sensor's own reset (10_state.md R21); an operand in tests, no
state of the block. -/
def Config.urDefault : Byte := 0x02

/-- The four precision levels of the user register (10_state.md R20), named by temperature and humidity bits. -/
inductive Precision where
  | t14h12
  | t13h10
  | t12h8
  | t11h11
  deriving DecidableEq, Repr, Inhabited

/-- The pair (temperature bits, humidity bits) of a precision level (10_state.md R20). -/
def Precision.bits : Precision → Nat × Nat
  | .t14h12 => (14, 12)
  | .t13h10 => (13, 10)
  | .t12h8 => (12, 8)
  | .t11h11 => (11, 11)

/-- OPEN parameter `RES_MAP` (R5, D26): which precision level a resolution code selects. DESIGN CHOICE, safe (log 7):
no rule of the block uses it, and nothing constrains it. -/
opaque Config.resMap : BitVec 2 → Precision

/-- OPEN parameter `LAT(op)` (R5, R115, D22), by operation code. DESIGN CHOICE, safe (log 6): no rule depends on it and
the model has no time. -/
opaque Config.lat : BitVec 4 → Nat

/-- OPEN parameter `SELFTEST_MASK` (R5, D28), outside the block. DESIGN CHOICE, safe (log 8): no rule uses it. -/
opaque Config.selftestMask : Byte

end Sys2Proof
end

