-- ==== Sys2Proof/Syntax.lean ====
section
/-!
DEFINITION. The five operations with their operands (30_encoding.md R48 to R54, opcode_table.json).
-/

namespace Sys2Proof

/-- An operation. Its operands are exactly the operand fields of its format, at their widths, and every value of them
is legal (30_encoding.md R49 to R51). -/
inductive Instr where
  /-- `CRCV raw, chk` (40_crc.md R66). -/
  | crcv (raw : Raw) (chk : Byte)
  /-- `DEC cur` (41_codec.md R76). -/
  | dec (cur : Byte)
  /-- `SETRES cur, arg` (41_codec.md R77). -/
  | setres (cur : Byte) (arg : Byte)
  /-- `TGLHTR cur` (41_codec.md R78). -/
  | tglhtr (cur : Byte)
  /-- `TGLOTP cur` (41_codec.md R79). -/
  | tglotp (cur : Byte)
  deriving DecidableEq, Repr

end Sys2Proof
end

