-- ==== Sys2Proof/WellFormed.lean ====
section
/-!
DEFINITION. Well-formedness: of an operation (nothing to check, every operand value is legal) and of a line of the
written syntax (each operand inside its range, 30_encoding.md R56).
-/

namespace Sys2Proof

/-- Every operation is well formed: the formats call every value of `RAW`, `CHK`, `CUR` and `ARG` legal
(30_encoding.md R49, R50, R51), and the types already hold the widths. -/
def Instr.wf : Instr → Bool
  | .crcv _ _ => true
  | .dec _ => true
  | .setres _ _ => true
  | .tglhtr _ => true
  | .tglotp _ => true

/-- A line of the written syntax (30_encoding.md R56, R57). Operands are numbers; `Line.wf` checks their ranges. -/
inductive Line where
  | crcv (raw chk : Nat)
  | dec (cur : Nat)
  | setres (cur arg : Nat)
  | tglhtr (cur : Nat)
  | tglotp (cur : Nat)
  /-- The pseudo-operation `CRCG raw` (R57). -/
  | crcg (raw : Nat)
  /-- `.word v`, the 32-bit value as it stands. -/
  | word (v : Nat)
  deriving DecidableEq, Repr

/-- The operand ranges of R56: "An operand outside its range cannot be written in this syntax". -/
def Line.wf : Line → Bool
  | .crcv raw chk => decide (raw < 65536) && decide (chk < 256)
  | .dec cur => decide (cur < 256)
  | .setres cur arg => decide (cur < 256) && decide (arg < 256)
  | .tglhtr cur => decide (cur < 256)
  | .tglotp cur => decide (cur < 256)
  | .crcg raw => decide (raw < 65536)
  | .word v => decide (v < 2 ^ 32)

end Sys2Proof
end

