-- ==== Sys2Proof/Decode.lean ====
section
/-!
DEFINITION. Decoding of the operation word (30_encoding.md R54, total on all 2^32 words, rejecting by cause), the
encoder of the formats C, R2 and R1 (R48 to R51), the assembler of the written syntax (R56, R57), and the word as
spec/opcode_table.json numbers its bits.
-/

namespace Sys2Proof

/-- The two causes of a rejection (60_exceptions.md R90). -/
inductive Cause where
  /-- `OPC` selects no operation (R92). -/
  | illegalOpcode
  /-- A reserved field of the format is not zero (R93). -/
  | reservedField
  deriving DecidableEq, Repr

/-- The cause code that `ECAUSE` and `resp` carry (60_exceptions.md R90). -/
def causeCode : Cause → BitVec 2
  | .illegalOpcode => 0b01
  | .reservedField => 0b10

/-- The outcome of decoding: one of the five operations, or a rejection. -/
inductive Decoded where
  | accept (i : Instr)
  | reject (c : Cause)
  deriving DecidableEq, Repr

/-- The operation of an accepted word. -/
def Decoded.instr? : Decoded → Option Instr
  | .accept i => some i
  | .reject _ => none

/-- The cause of a rejected word. -/
def Decoded.cause? : Decoded → Option Cause
  | .accept _ => none
  | .reject c => some c

/-- `OPC = w[31:28]` (R48). -/
def fieldOpc (w : Word) : BitVec 4 := w.extractLsb' 28 4

/-- `Z1 = w[27:24]`, reserved in every format (R48). -/
def fieldZ1 (w : Word) : BitVec 4 := w.extractLsb' 24 4

/-- `Z2 = w[23:16]`, reserved in formats R2 and R1 (R50, R51). -/
def fieldZ2 (w : Word) : Byte := w.extractLsb' 16 8

/-- `Z3 = w[7:0]`, reserved in format R1 (R51). -/
def fieldZ3 (w : Word) : Byte := w.extractLsb' 0 8

/-- `RAW = w[23:8]` of format C (R49). -/
def fieldRaw (w : Word) : Raw := w.extractLsb' 8 16

/-- `CHK = w[7:0]` of format C (R49). -/
def fieldChk (w : Word) : Byte := w.extractLsb' 0 8

/-- `CUR = w[15:8]` of formats R2 and R1 (R50, R51). -/
def fieldCur (w : Word) : Byte := w.extractLsb' 8 8

/-- `ARG = w[7:0]` of format R2 (R50). -/
def fieldArg (w : Word) : Byte := w.extractLsb' 0 8

/-- The operation codes in use: 0x1 to 0x5 (R53, R54). -/
def definedOpc (opc : BitVec 4) : Bool :=
  opc == 0x1 || opc == 0x2 || opc == 0x3 || opc == 0x4 || opc == 0x5

/-- Decoding in the order of 30_encoding.md R54 "and no other". -/
def decode (w : Word) : Decoded :=
  if !definedOpc (fieldOpc w) then .reject .illegalOpcode
  else if fieldZ1 w ≠ 0 then .reject .reservedField
  else if fieldOpc w = 0x1 then .accept (.crcv (fieldRaw w) (fieldChk w))
  else if fieldZ2 w ≠ 0 then .reject .reservedField
  else if fieldOpc w = 0x3 then .accept (.setres (fieldCur w) (fieldArg w))
  else if fieldZ3 w ≠ 0 then .reject .reservedField
  else if fieldOpc w = 0x2 then .accept (.dec (fieldCur w))
  else if fieldOpc w = 0x4 then .accept (.tglhtr (fieldCur w))
  else .accept (.tglotp (fieldCur w))

/-- Format C: `OPC`, `Z1 = 0`, `RAW`, `CHK` (R48, R49). -/
def formatC (opc : BitVec 4) (raw : Raw) (chk : Byte) : Word :=
  opc ++ 0x0#4 ++ raw ++ chk

/-- Format R2: `OPC`, `Z1 = 0`, `Z2 = 0`, `CUR`, `ARG` (R48, R50). -/
def formatR2 (opc : BitVec 4) (cur arg : Byte) : Word :=
  opc ++ 0x0#4 ++ 0x00#8 ++ cur ++ arg

/-- Format R1: `OPC`, `Z1 = 0`, `Z2 = 0`, `CUR`, `Z3 = 0` (R48, R51). -/
def formatR1 (opc : BitVec 4) (cur : Byte) : Word :=
  opc ++ 0x0#4 ++ 0x00#8 ++ cur ++ 0x00#8

/-- The operation code of an operation (R53). -/
def opcOf : Instr → BitVec 4
  | .crcv _ _ => 0x1
  | .dec _ => 0x2
  | .setres _ _ => 0x3
  | .tglhtr _ => 0x4
  | .tglotp _ => 0x5

/-- A row of the opcode map: a word `w` selects it exactly when `(w AND mask) = pattern` (R53). -/
structure OpRow where
  mnemonic : String
  pattern : Word
  mask : Word
  deriving DecidableEq, Repr

/-- CRCV's row (R53). -/
def rowCrcv : OpRow := ⟨"CRCV", 0x10000000, 0xFF000000⟩

/-- DEC's row (R53). -/
def rowDec : OpRow := ⟨"DEC", 0x20000000, 0xFFFF00FF⟩

/-- SETRES's row (R53). -/
def rowSetres : OpRow := ⟨"SETRES", 0x30000000, 0xFFFF0000⟩

/-- TGLHTR's row (R53). -/
def rowTglhtr : OpRow := ⟨"TGLHTR", 0x40000000, 0xFFFF00FF⟩

/-- TGLOTP's row (R53). -/
def rowTglotp : OpRow := ⟨"TGLOTP", 0x50000000, 0xFFFF00FF⟩

/-- The opcode map of R53; every word no row selects is rejected. -/
def opcodeTable : List OpRow := [rowCrcv, rowDec, rowSetres, rowTglhtr, rowTglotp]

/-- The row of an operation. -/
def rowOf : Instr → OpRow
  | .crcv _ _ => rowCrcv
  | .dec _ => rowDec
  | .setres _ _ => rowSetres
  | .tglhtr _ => rowTglhtr
  | .tglotp _ => rowTglotp

/-- The operation word of an operation, from the formats of R48 and the opcode map of R53. -/
def encode (i : Instr) : Word :=
  match i with
  | .crcv raw chk => formatC (opcOf i) raw chk
  | .dec cur => formatR1 (opcOf i) cur
  | .setres cur arg => formatR2 (opcOf i) cur arg
  | .tglhtr cur => formatR1 (opcOf i) cur
  | .tglotp cur => formatR1 (opcOf i) cur

/-- The operation a line of the written syntax stands for; `.word` stands for none by itself (R56), and `CRCG raw` for
`CRCV raw, 0x00` (R57). -/
def lineInstr? : Line → Option Instr
  | .crcv raw chk => some (.crcv (BitVec.ofNat 16 raw) (BitVec.ofNat 8 chk))
  | .dec cur => some (.dec (BitVec.ofNat 8 cur))
  | .setres cur arg => some (.setres (BitVec.ofNat 8 cur) (BitVec.ofNat 8 arg))
  | .tglhtr cur => some (.tglhtr (BitVec.ofNat 8 cur))
  | .tglotp cur => some (.tglotp (BitVec.ofNat 8 cur))
  | .crcg raw => some (.crcv (BitVec.ofNat 16 raw) 0x00)
  | .word _ => none

/-- The operation word of a line without the check of its ranges. -/
def lineWord : Line → Word
  | .word v => BitVec.ofNat 32 v
  | l => ((lineInstr? l).map encode).getD 0

/-- The operation word of a line (R56, R57); a line with an operand outside its range has none. -/
def assemble (l : Line) : Option Word :=
  if l.wf then some (lineWord l) else none

/-- The operation word whose bits are `w` in the numbering of spec/opcode_table.json, bit 0 the least significant of
the one 32-bit word; bits from `nbits` up are 0. -/
def tableWord (nbits w : Nat) : Word := BitVec.ofNat 32 (w % 2 ^ nbits)

/-- The operation the decoder reads from such a word, `none` where it rejects. -/
def decodeTableWord (nbits w : Nat) : Option Instr := (decode (tableWord nbits w)).instr?

end Sys2Proof
end

