-- ==== Sys2Proof/Machine/State.lean ====
section
/-!
DEFINITION. The state: the thirteen elements of the block (10_state.md R10), and the model's own fields for its ports
and for the host's remaining moves.
-/

namespace Sys2Proof.Machine

/-- The complete architectural state of the block, thirteen elements, 45 bits (10_state.md R10). -/
structure Block where
  /-- `REM`, the remainder register (R12). -/
  rem : Rem
  /-- `CRCOK`, the verification flag (R13). -/
  crcok : Bool
  /-- `CV`, written mark of `REM` and `CRCOK` (R16). -/
  cv : Bool
  /-- `RES`, the result byte (R14). -/
  res : Byte
  /-- `RV`, written mark of `RES` (R16). -/
  rv : Bool
  /-- `RSEL`, the resolution code (R15). -/
  rsel : BitVec 2
  /-- `EOB`, end-of-battery (R15). -/
  eob : Bool
  /-- `HTR`, heater enabled (R15). -/
  htr : Bool
  /-- `OTPD`, OTP reload disabled (R15). -/
  otpd : Bool
  /-- `OTPEN`, OTP reload enabled (R15, 90_conflicts.md C1). -/
  otpen : Bool
  /-- `FV`, written mark of `FLD` (R16). -/
  fv : Bool
  /-- `ILL`, a rejection has happened since reset (R16). -/
  ill : Bool
  /-- `ECAUSE`, the cause code of the most recent rejection (R16). -/
  ecause : BitVec 2
  deriving DecidableEq, Repr

/-- The reset value of every element (10_state.md R24). -/
def Block.reset : Block where
  rem := 0x000000
  crcok := false
  cv := false
  res := 0x00
  rv := false
  rsel := 0b00
  eob := false
  htr := false
  otpd := false
  otpen := false
  fv := false
  ill := false
  ecause := 0b00

/-- The host's moves, complete (70_reset_and_hazards.md R118). The move reset of R118, "`rst` asserted then released", is
the two entries `assertRst` and `releaseRst`, so that a read may stand between them: every word is readable "at all
times" (20_memory.md R39). DESIGN CHOICE, safe (log 3). -/
inductive HostMove where
  /-- Present one 32-bit operation word on the command port. -/
  | issue (w : Word)
  /-- Read the word `raddr` of the read space. -/
  | read (raddr : BitVec 2)
  /-- Assert `rst`, the first half of a reset. -/
  | assertRst
  /-- Release `rst`, the second half of a reset. -/
  | releaseRst
  deriving DecidableEq, Repr

/-- The host's move reset (R118): `rst` asserted then released. -/
def hostReset : List HostMove := [.assertRst, .releaseRst]

/-- What the block gives back at a move (R118): a response to an issue, a read word to a read, nothing to a reset. -/
inductive Answer where
  | nothing
  | resp (code : BitVec 2)
  | rdata (word : ReadWord)
  deriving DecidableEq, Repr

/-- The block with its ports. `block` is all of the spec's state; the other fields are the model's own. -/
structure State where
  /-- The thirteen elements of R10. -/
  block : Block
  /-- The level of the reset input `rst` (R105). DESIGN CHOICE, safe (log 3). -/
  rst : Bool
  /-- The host's moves that are still to come, the next one first (R117, R118). DESIGN CHOICE, safe (log 1). -/
  moves : List HostMove
  /-- What the block gave back at the last move (R91, R118). DESIGN CHOICE, safe (log 2). -/
  answer : Answer
  deriving DecidableEq, Repr

/-- The machine right after reset: every element at its reset value (R24), `rst` released, no move pending, nothing
given back yet. -/
def State.reset : State where
  block := Block.reset
  rst := false
  moves := []
  answer := .nothing

/-- No fault exists: the block's one exception, the rejection of a word, is a next state (60_exceptions.md R91), and
the step "returns a next state for every word; it is total" (R96). Nobody raises a fault; safe (log 5). -/
inductive Fault where
  deriving DecidableEq, Repr

/-- Why a step has no meaning. -/
inductive Refusal where
  /-- Raised by an arm of `exec` for an operation without a meaning. No arm does: all five are modelled. Safe. -/
  | notModelled (mnemonic : String)
  deriving DecidableEq, Repr

end Sys2Proof.Machine
end

