-- ==== Sys2Proof/Machine/Operands.lean ====
section
/-!
DEFINITION. The operand forms: the initial remainder of a raw value and a checksum (30_encoding.md R49), the result
frame (20_memory.md R34, R36) and the fields of a user-register byte (10_state.md R20).
-/

namespace Sys2Proof.Machine

/-- `(zext_24(RAW) << 8) OR zext_24(CHK)` inside `n` bits (R49, R66; 40_crc.md R70 lets the width be 24 or more). -/
def initialRemainder (n : Nat) (raw : Raw) (chk : Byte) : BitVec n :=
  (raw.setWidth n <<< 8) ||| chk.setWidth n

/-- The operands of a result frame, in bus order: `RAW = {B0, B1}`, `CHK = B2` (20_memory.md R34). A frame of any other
length cannot be presented (R36). -/
def frameOperands : List Byte → Option (Raw × Byte)
  | [b0, b1, b2] => some (b0 ++ b1, b2)
  | _ => none

/-- The operation word that verifies a result frame, if the frame has its three bytes (R34, R36). -/
def frameWord (frame : List Byte) : Option Word :=
  (frameOperands frame).map fun p => encode (.crcv p.1 p.2)

/-- The resolution code of a register byte: bit 7, then bit 0 (10_state.md R15, R20). -/
def urRsel (cur : Byte) : BitVec 2 := BitVec.ofBool (cur.getLsbD 7) ++ BitVec.ofBool (cur.getLsbD 0)

/-- End-of-battery, bit 6 (R20). -/
def urEob (cur : Byte) : Bool := cur.getLsbD Config.eobBit

/-- Heater enabled, bit 2 (R20). -/
def urHtr (cur : Byte) : Bool := cur.getLsbD 2

/-- OTP reload disabled, bit 1 as it stands (R20). -/
def urOtpd (cur : Byte) : Bool := cur.getLsbD 1

/-- OTP reload enabled, the complement of bit 1 (R15, R20, 90_conflicts.md C1; log 10). -/
def urOtpen (cur : Byte) : Bool := !urOtpd cur

end Sys2Proof.Machine
end

