-- ==== Sys2Proof/Machine/Flags.lean ====
section
/-!
DEFINITION. The one condition flag and the bits of the STATUS word (10_state.md R13, R16, R17).
-/

namespace Sys2Proof.Machine

/-- `CRCOK`: the remainder is zero (10_state.md R13, 40_crc.md R66). -/
def crcVerdict (rem : Rem) : Bool := rem == 0x000000

/-- The STATUS word: `CRCOK` at bit 0, `CV` 1, `RV` 2, `FV` 3, `ILL` 4, `ECAUSE` 6:5, zero above (10_state.md R17). -/
def statusWord (b : Block) : ReadWord :=
  0#17 ++ b.ecause ++ BitVec.ofBool b.ill ++ BitVec.ofBool b.fv ++ BitVec.ofBool b.rv ++ BitVec.ofBool b.cv
    ++ BitVec.ofBool b.crcok

end Sys2Proof.Machine
end

