-- ==== Sys2Proof/Machine/Ops.lean ====
section
/-!
DEFINITION. The named operations on the state: the writes of the three result groups, the completion of an accepted
word, and the rejection of a word, the block's one exception (60_exceptions.md R91).
-/

namespace Sys2Proof.Machine

/-- The group CRCV writes, together (20_memory.md R37): `REM`, `CRCOK`, `CV` (40_crc.md R66). -/
def Block.writeCrc (b : Block) (rem : Rem) : Block :=
  { b with rem := rem, crcok := crcVerdict rem, cv := true }

/-- The group SETRES, TGLHTR and TGLOTP write: `RES`, `RV` (41_codec.md R77 to R79). -/
def Block.writeRes (b : Block) (res : Byte) : Block :=
  { b with res := res, rv := true }

/-- The group DEC writes, the five fields of `FLD` and `FV`, together, from a register byte (41_codec.md R76). -/
def Block.writeFld (b : Block) (cur : Byte) : Block :=
  { b with rsel := urRsel cur, eob := urEob cur, htr := urHtr cur, otpd := urOtpd cur, otpen := urOtpen cur, fv := true }

/-- What a rejection writes: `ILL` and `ECAUSE`, together (60_exceptions.md R91). -/
def Block.record (b : Block) (c : Cause) : Block :=
  { b with ill := true, ecause := causeCode c }

/-- An accepted word ends: the new state of the block stands and the response is 0b00 (R91). -/
def complete (b : Block) (s : State) : Host.Outcome State Fault Refusal :=
  .next { s with block := b, answer := .resp 0b00 }

/-- `raise <Cause>(w)`: `ILL` and `ECAUSE` are written, the response is the cause code, and nothing else changes
(60_exceptions.md R91). There is no handler and no return; the block is ready for the next word (R95). -/
def raise (c : Cause) (s : State) : Host.Outcome State Fault Refusal :=
  .next { s with block := s.block.record c, answer := .resp (causeCode c) }

end Sys2Proof.Machine
end

