-- ==== Sys2Proof/Machine/Codec.lean ====
section
/-!
DEFINITION. The register-codec family: DEC, SETRES, TGLHTR, TGLOTP (41_codec.md R75 to R79). Each takes `CUR` from the
operation word, never from the state.
-/

namespace Sys2Proof.Machine

/-- `(CUR AND 0x7E) OR (ARG AND 0x81)` (R77). -/
def setResolution (cur arg : Byte) : Byte := (cur &&& Config.keepMask) ||| (arg &&& Config.resMask)

/-- `CUR XOR 0x04` (R78). -/
def toggleHeater (cur : Byte) : Byte := cur ^^^ Config.htrMask

/-- `CUR XOR 0x02` (R79). -/
def toggleOtp (cur : Byte) : Byte := cur ^^^ Config.otpdMask

/-- DEC: the five fields of `FLD` and `FV` (R76). -/
def execDec (cur : Byte) (s : State) : Host.Outcome State Fault Refusal :=
  complete (s.block.writeFld cur) s

/-- SETRES: `RES` and `RV` (R77). -/
def execSetres (cur arg : Byte) (s : State) : Host.Outcome State Fault Refusal :=
  complete (s.block.writeRes (setResolution cur arg)) s

/-- TGLHTR: `RES` and `RV` (R78). -/
def execTglhtr (cur : Byte) (s : State) : Host.Outcome State Fault Refusal :=
  complete (s.block.writeRes (toggleHeater cur)) s

/-- TGLOTP: `RES` and `RV` (R79). -/
def execTglotp (cur : Byte) (s : State) : Host.Outcome State Fault Refusal :=
  complete (s.block.writeRes (toggleOtp cur)) s

end Sys2Proof.Machine
end

