-- ==== Sys2Proof/Machine/Crc.lean ====
section
/-!
DEFINITION. The CRC family: the long division of 40_crc.md R66, at any working width, and CRCV.
-/

namespace Sys2Proof.Machine

/-- Iteration `i` on the pair (`rem`, `div`): if bit `23 - i` of `rem` is set, XOR the divisor in; then shift the
divisor right by one, whether or not the XOR was done (R66, 90_conflicts.md C5). -/
def crcIter {n : Nat} (i : Nat) (v : BitVec n × BitVec n) : BitVec n × BitVec n :=
  (if v.1.getLsbD (23 - i) then v.1 ^^^ v.2 else v.1, v.2 >>> 1)

/-- The pair (`rem`, `div`) after the first `k` iterations, 0 to `k - 1`. -/
def crcLoop {n : Nat} (rem0 : BitVec n) : Nat → BitVec n × BitVec n
  | 0 => (rem0, BitVec.ofNat n Config.divisor0)
  | k + 1 => crcIter k (crcLoop rem0 k)

/-- The final remainder after the sixteen iterations (R66). -/
def crcDivide {n : Nat} (rem0 : BitVec n) : BitVec n := (crcLoop rem0 Config.niter).1

/-- The value CRCV leaves in `REM`, worked in 24 bits (10_state.md R12, D8). -/
def crcRemainder (raw : Raw) (chk : Byte) : Rem := crcDivide (initialRemainder 24 raw chk)

/-- `crc8(RAW)`: `REM[7:0]` after `CRCV RAW, 0x00` (R68). -/
def crc8 (raw : Raw) : Byte := (crcRemainder raw 0x00).extractLsb' 0 8

/-- CRCV: `REM`, `CRCOK`, `CV` (R66). A mismatch is a result, never a rejection (R71). -/
def execCrcv (raw : Raw) (chk : Byte) (s : State) : Host.Outcome State Fault Refusal :=
  complete (s.block.writeCrc (crcRemainder raw chk)) s

end Sys2Proof.Machine
end

