-- ==== Sys2Proof/Machine/Dispatch.lean ====
section
/-!
DEFINITION. One arm per operation, in the order of the opcode table.
-/

namespace Sys2Proof.Machine

def exec (i : Instr) (s : State) : Host.Outcome State Fault Refusal :=
  match i with
  | .crcv raw chk => Sys2Proof.Machine.execCrcv raw chk s
  | .dec cur => Sys2Proof.Machine.execDec cur s
  | .setres cur arg => Sys2Proof.Machine.execSetres cur arg s
  | .tglhtr cur => Sys2Proof.Machine.execTglhtr cur s
  | .tglotp cur => Sys2Proof.Machine.execTglotp cur s

end Sys2Proof.Machine
end

