-- ==== Sys2Proof/Machine/HostMoves.lean ====
section
/-!
DEFINITION. The host's side of a step: the read port (10_state.md R17, 20_memory.md R31), reset
(70_reset_and_hazards.md R105), and which move comes next (R118).
-/

namespace Sys2Proof.Machine

/-- REMW: `REM` (10_state.md R17). -/
def remWord (b : Block) : ReadWord := b.rem

/-- RESW: `RES` at bits 7:0, zero above (R17). -/
def resWord (b : Block) : ReadWord := 0#16 ++ b.res

/-- FLDW: `RSEL` at bits 1:0, `EOB` 2, `HTR` 3, `OTPD` 4, `OTPEN` 5, zero above (R17). -/
def fldWord (b : Block) : ReadWord :=
  0#18 ++ BitVec.ofBool b.otpen ++ BitVec.ofBool b.otpd ++ BitVec.ofBool b.htr ++ BitVec.ofBool b.eob ++ b.rsel

/-- The read space: every `raddr` selects a word (20_memory.md R31). -/
def readWord (b : Block) (raddr : BitVec 2) : ReadWord :=
  if raddr = 0 then statusWord b
  else if raddr = 1 then remWord b
  else if raddr = 2 then resWord b
  else fldWord b

/-- What the next step has to do, with the host's moves that are left after it. -/
inductive Pending where
  /-- No move is pending (60_exceptions.md R97, R101). -/
  | idle
  /-- The host asserts `rst`. -/
  | assert (rest : List HostMove)
  /-- The host releases `rst`. -/
  | release (rest : List HostMove)
  /-- The host reads a word, at any time (20_memory.md R39). -/
  | read (raddr : BitVec 2) (rest : List HostMove)
  /-- The host presents an operation word, and `rst` is not asserted. -/
  | word (w : Word) (rest : List HostMove)
  /-- An operation word stands on the command port while `rst` is asserted: it is not taken (R105). -/
  | untaken (rest : List HostMove)
  deriving DecidableEq, Repr

/-- The next move. Reset dominates the command port, and nothing else: while `rst` is asserted no word is taken (R105). -/
def pending (s : State) : Pending :=
  match s.moves with
  | [] => .idle
  | .assertRst :: rest => .assert rest
  | .releaseRst :: rest => .release rest
  | .read raddr :: rest => .read raddr rest
  | .issue w :: rest => if s.rst then .untaken rest else .word w rest

/-- The move is over: the rest is still to come. -/
def State.withMoves (s : State) (rest : List HostMove) : State := { s with moves := rest }

/-- While `rst` is asserted every element holds its reset value (R105). -/
def State.held (s : State) : State := if s.rst then { s with block := Block.reset } else s

/-- `rst` asserted: every element at its reset value, nothing given back (R105, R118). -/
def stepAssert (s : State) : Host.Outcome State Fault Refusal :=
  .next { s with block := Block.reset, rst := true, answer := .nothing }

/-- `rst` released: the elements stay as they are, at their reset values if `rst` was asserted (10_state.md R23, R105),
and the block is ready for its next word. -/
def stepRelease (s : State) : Host.Outcome State Fault Refusal :=
  .next { s with rst := false, answer := .nothing }

/-- A read gives back the selected word and changes no element (R17, R31, R118). -/
def stepRead (raddr : BitVec 2) (s : State) : Host.Outcome State Fault Refusal :=
  .next { s with answer := .rdata (readWord s.block raddr) }

/-- A word that is not taken has no effect and no response (R105). DEDUCED, unsafe for a host that breaks R118 (log 3). -/
def stepUntaken (s : State) : Host.Outcome State Fault Refusal := .next { s with answer := .nothing }

/-- With no move pending nothing happens: the block "is idle between words and keeps all its state" (R101; log 4). -/
def stepIdle (s : State) : Host.Outcome State Fault Refusal := .next s

/-- The host presents the word whose bits are `w` as the very next move, with `rst` released (log 1). -/
def presentTableWord (s : State) (nbits w : Nat) : State :=
  { s with rst := false, moves := .issue (tableWord nbits w) :: s.moves }

end Sys2Proof.Machine
end

