-- ==== Sys2Proof/Machine/Step.lean ====
section
/-!
DEFINITION. One step: the host's next move (70_reset_and_hazards.md R118). An issued word is decoded and executed, or
rejected, as one atomic step (20_memory.md R37). While `rst` is asserted every step starts from the held reset values.
-/

namespace Sys2Proof.Machine

/-- One step of the block; a next state for every state (60_exceptions.md R96). -/
def step (s : State) : Host.Outcome State Fault Refusal :=
  match pending s with
  | .idle => stepIdle s.held
  | .assert rest => stepAssert (s.held.withMoves rest)
  | .release rest => stepRelease (s.held.withMoves rest)
  | .read raddr rest => stepRead raddr (s.held.withMoves rest)
  | .untaken rest => stepUntaken (s.held.withMoves rest)
  | .word w rest =>
    match decode w with
    | .accept i => exec i (s.withMoves rest)
    | .reject c => raise c (s.withMoves rest)

/-- `s` with the operation word `w` as the host's next move (log 1: how a program comes to run). -/
def State.withFetchWord (s : State) (nbits w : Nat) : State := presentTableWord s nbits w

end Sys2Proof.Machine
end

