-- ==== Sys2Proof/Safety.lean ====
section
/-!
DEFINITION. What claims speak of: the invariants of every reachable state (10_state.md R18), which step is a reset, what
the host may trust (R16), and what a run leaves, told from its moves alone (70_reset_and_hazards.md R117).
-/

namespace Sys2Proof.Machine

/-- (I1) `REM[23:8] = 0`. -/
abbrev Block.RemHighZero (b : Block) : Prop := b.rem.extractLsb' 8 16 = 0

/-- (I2) `CRCOK = 1` implies `CV = 1` and `REM = 0`. -/
abbrev Block.VerdictMarked (b : Block) : Prop := b.crcok = true → b.cv = true ∧ b.rem = 0

/-- (I3) `CV = 1` implies (`CRCOK = 1` exactly when `REM = 0`). -/
abbrev Block.VerdictExact (b : Block) : Prop := b.cv = true → (b.crcok = true ↔ b.rem = 0)

/-- (I4) `FV = 1` implies `OTPEN = NOT_1(OTPD)`. -/
abbrev Block.OtpComplement (b : Block) : Prop := b.fv = true → b.otpen = !b.otpd

/-- (I5) `ILL = 1` exactly when `ECAUSE != 0b00`, and `ECAUSE != 0b11`. -/
abbrev Block.CauseLegal (b : Block) : Prop := (b.ill = true ↔ b.ecause ≠ 0b00) ∧ b.ecause ≠ 0b11

/-- The invariants I1 to I5 of 10_state.md R18. -/
abbrev Block.Inv (b : Block) : Prop :=
  Block.RemHighZero b ∧ Block.VerdictMarked b ∧ Block.VerdictExact b ∧ Block.OtpComplement b ∧ Block.CauseLegal b

/-- The response is never 0b11 (60_exceptions.md R90, 93_implementation_defined.md U3). -/
abbrev State.AnswerLegal (s : State) : Prop := s.answer ≠ .resp 0b11

/-- While `rst` is asserted every element holds its reset value (70_reset_and_hazards.md R105). -/
abbrev State.ResetHeld (s : State) : Prop := s.rst = true → s.block = Block.reset

/-- The machine's invariant: I1 to I5, the legal response and the held reset. -/
abbrev State.Inv (s : State) : Prop := Block.Inv s.block ∧ State.AnswerLegal s ∧ State.ResetHeld s

/-- The next step belongs to a reset: `rst` is asserted, or the host asserts it now (R105, R118). -/
def State.resetting (s : State) : Bool := s.rst || s.moves.head? == some .assertRst

/-- The element group of CRCV: `REM`, `CRCOK`, `CV`. -/
def Block.crcGroup (b : Block) : Rem × Bool × Bool := (b.rem, b.crcok, b.cv)

/-- The element group of SETRES, TGLHTR and TGLOTP: `RES`, `RV`. -/
def Block.resGroup (b : Block) : Byte × Bool := (b.res, b.rv)

/-- The element group of DEC: the five fields of `FLD`, and `FV`. -/
def Block.fldGroup (b : Block) : BitVec 2 × Bool × Bool × Bool × Bool × Bool :=
  (b.rsel, b.eob, b.htr, b.otpd, b.otpen, b.fv)

/-- The element group of a rejection: `ILL`, `ECAUSE`. -/
def Block.illGroup (b : Block) : Bool × BitVec 2 := (b.ill, b.ecause)

/-- What one move does to the level of `rst` and to the words taken since the last reset, oldest first: asserting `rst`
forgets them, and while it is asserted no word is taken (R105). -/
def afterMove (v : Bool × List Word) : HostMove → Bool × List Word
  | .issue w => if v.1 then v else (v.1, v.2 ++ [w])
  | .read _ => v
  | .assertRst => (true, [])
  | .releaseRst => (false, v.2)

/-- The level of `rst` after a sequence of moves from reset, and the words taken since the last reset, oldest first. -/
def takenSinceReset (ms : List HostMove) : Bool × List Word := ms.foldl afterMove (false, [])

/-- The result of the most recent of the words that an operation with a result of this kind answers. -/
def lastResult {α : Type} (result : Instr → Option α) (ws : List Word) : Option α :=
  (ws.filterMap fun w => (decode w).instr?.bind result).getLast?

/-- The remainder a CRCV leaves. -/
def remainderOf? : Instr → Option Rem
  | .crcv raw chk => some (crcRemainder raw chk)
  | _ => none

/-- The byte an encoder leaves. -/
def encodedOf? : Instr → Option Byte
  | .setres cur arg => some (setResolution cur arg)
  | .tglhtr cur => some (toggleHeater cur)
  | .tglotp cur => some (toggleOtp cur)
  | _ => none

/-- The register byte a DEC unpacks. -/
def decodedOf? : Instr → Option Byte
  | .dec cur => some cur
  | _ => none

/-- The causes of the rejected words, oldest first. -/
def rejections (ws : List Word) : List Cause := ws.filterMap fun w => (decode w).cause?

/-- The thirteen elements told from the words taken since reset: each group holds the result of the most recent
operation of its group, or its reset value (10_state.md R12 to R16, 70_reset_and_hazards.md R107). -/
def blockOfWords (ws : List Word) : Block where
  rem := (lastResult remainderOf? ws).getD 0
  crcok := lastResult remainderOf? ws == some 0
  cv := (lastResult remainderOf? ws).isSome
  res := (lastResult encodedOf? ws).getD 0
  rv := (lastResult encodedOf? ws).isSome
  rsel := ((lastResult decodedOf? ws).map urRsel).getD 0
  eob := ((lastResult decodedOf? ws).map urEob).getD false
  htr := ((lastResult decodedOf? ws).map urHtr).getD false
  otpd := ((lastResult decodedOf? ws).map urOtpd).getD false
  otpen := ((lastResult decodedOf? ws).map urOtpen).getD false
  fv := (lastResult decodedOf? ws).isSome
  ill := !(rejections ws).isEmpty
  ecause := ((rejections ws).getLast?.map causeCode).getD 0b00

/-- The conventional CRC-8 of 40_crc.md R73, one bit: shift left, XOR 0x31 in if a 1 left. -/
def conventionalBit (c : Byte) : Byte := if c.getLsbD 7 then (c <<< 1) ^^^ 0x31 else c <<< 1

/-- Eight bits. -/
def conventionalByte (c b : Byte) : Byte := Nat.repeat conventionalBit 8 (c ^^^ b)

/-- The conventional CRC-8 with generator 0x31, initial value 0, no reflection and no final XOR, over the two bytes of
`RAW`, high byte first (R73). -/
def conventionalCrc8 (raw : Raw) : Byte :=
  conventionalByte (conventionalByte 0x00 (raw.extractLsb' 8 8)) (raw.extractLsb' 0 8)

end Sys2Proof.Machine
end

