-- ==== Sys2Proof/Certificates/Slice0/Obligations.lean ====
section
/-!
DEFINITION. The statements for the provers. Each docstring names the rule of spec/ it formalises. In every statement
about a step, the ports stand where log 1, 2 and 3 put them: the host's moves in `moves`, the block's answer in
`answer`, the reset input in `rst`.
-/

open Sys2Proof Sys2Proof.Machine

/-! ### The five operations: encoding, effect and frame -/

/-- 40_crc.md R66, whole. CRCV completes in every state with `REM` the result of the sixteen iterations, `CRCOK` whether
it is zero, `CV` set, response 0b00 and nothing else changed; its word; when its word is rejected, and that the word
then selects no operation at all; the sixteen divisors and the one left over; the worked examples. -/
def Obligations.CrcvComputesLongDivision : Prop :=
  (∀ (raw : Raw) (chk : Byte),
    encode (.crcv raw chk) = 0x10000000 ||| (raw.setWidth 32 <<< 8) ||| chk.setWidth 32 ∧
    (encode (.crcv raw chk)).extractLsb' 0 24 = (raw.setWidth 24 <<< 8) ||| chk.setWidth 24) ∧
  (∀ (raw : Raw) (chk : Byte) (s : State) (rem : Rem),
    rem = ((List.range 16).foldl
        (fun (v : Rem × Rem) i => (if v.1.getLsbD (23 - i) = true then v.1 ^^^ v.2 else v.1, v.2 >>> 1))
        ((raw.setWidth 24 <<< 8) ||| chk.setWidth 24, 0x988000)).1 →
    exec (.crcv raw chk) s = .next { s with
      block := { s.block with rem := rem, crcok := decide (rem = 0x000000), cv := true }
      answer := .resp 0b00 }) ∧
  (∀ w : Word, w.extractLsb' 28 4 = 0x1 → decode w =
    if w.extractLsb' 24 4 = 0 then .accept (.crcv (w.extractLsb' 8 16) (w.extractLsb' 0 8))
    else .reject .reservedField) ∧
  (∀ (w : Word) (i : Instr), w.extractLsb' 28 4 = 0x1 → w.extractLsb' 24 4 ≠ 0 → decode w ≠ .accept i) ∧
  (∀ rem0 : Rem, (List.range 17).map (fun k => (crcLoop rem0 k).2) =
    [0x988000, 0x4C4000, 0x262000, 0x131000, 0x098800, 0x04C400, 0x026200, 0x013100, 0x009880,
     0x004C40, 0x002620, 0x001310, 0x000988, 0x0004C4, 0x000262, 0x000131, 0x000098]) ∧
  encode (.crcv 0x683A 0x7C) = 0x10683A7C ∧ crcRemainder 0x683A 0x7C = 0x000000 ∧ crcRemainder 0x683A 0x7D = 0x000001

/-- 41_codec.md R76, whole. DEC completes in every state with the five fields of the register byte and `FV`, response
0b00 and nothing else changed; its word; when its word is rejected; bits 5:3 are not decoded; the corner cases and the
worked example. -/
def Obligations.DecUnpacksRegisterByte : Prop :=
  (∀ cur : Byte, encode (.dec cur) = 0x20000000 ||| (cur.setWidth 32 <<< 8)) ∧
  (∀ (cur : Byte) (s : State),
    exec (.dec cur) s = .next { s with
      block := { s.block with
        rsel := BitVec.ofBool (cur.getLsbD 7) ++ BitVec.ofBool (cur.getLsbD 0)
        eob := cur.getLsbD 6
        htr := cur.getLsbD 2
        otpd := cur.getLsbD 1
        otpen := !cur.getLsbD 1
        fv := true }
      answer := .resp 0b00 }) ∧
  (∀ cur : Byte, cur &&& 0x81 =
    (((urRsel cur).extractLsb' 1 1).setWidth 8 <<< 7) ||| ((urRsel cur).extractLsb' 0 1).setWidth 8) ∧
  (∀ w : Word, w.extractLsb' 28 4 = 0x2 → decode w =
    if w.extractLsb' 16 12 ≠ 0 ∨ w.extractLsb' 0 8 ≠ 0 then .reject .reservedField
    else .accept (.dec (w.extractLsb' 8 8))) ∧
  (∀ (c d : Byte) (s : State), c &&& 0xC7 = d &&& 0xC7 → exec (.dec c) s = exec (.dec d) s) ∧
  (∀ s : State, ∃ t u v : State,
    exec (.dec 0x00) s = .next t ∧ t.block.fldGroup = (0b00, false, false, false, true, true) ∧
    exec (.dec 0xFF) s = .next u ∧ u.block.fldGroup = (0b11, true, true, true, false, true) ∧
    exec (.dec 0x02) s = .next v ∧ v.block.fldGroup = (0b00, false, false, true, false, true) ∧
    readWord v.block 3 = 0x000010) ∧
  encode (.dec 0x02) = 0x20000200

/-- 41_codec.md R77, whole. SETRES completes in every state with `RES = (CUR AND 0x7E) OR (ARG AND 0x81)` and `RV`,
response 0b00 and nothing else changed; its word; when its word is rejected; the corner cases (a) to (e); the worked
examples. -/
def Obligations.SetresMergesResolutionBits : Prop :=
  (∀ cur arg : Byte, encode (.setres cur arg) = 0x30000000 ||| (cur.setWidth 32 <<< 8) ||| arg.setWidth 32) ∧
  (∀ (cur arg : Byte) (s : State),
    exec (.setres cur arg) s = .next { s with
      block := { s.block with res := (cur &&& 0x7E) ||| (arg &&& 0x81), rv := true }
      answer := .resp 0b00 }) ∧
  (∀ w : Word, w.extractLsb' 28 4 = 0x3 → decode w =
    if w.extractLsb' 16 12 ≠ 0 then .reject .reservedField
    else .accept (.setres (w.extractLsb' 8 8) (w.extractLsb' 0 8))) ∧
  (∀ cur arg : Byte,
    (setResolution cur arg).getLsbD 7 = arg.getLsbD 7 ∧ (setResolution cur arg).getLsbD 0 = arg.getLsbD 0 ∧
    (setResolution cur arg).extractLsb' 1 6 = cur.extractLsb' 1 6 ∧ setResolution cur arg &&& 0x81 = arg &&& 0x81) ∧
  (∀ (cur : Byte) (s : State), exec (.setres cur 0xFF) s = exec (.setres cur 0x81) s ∧
    exec (.setres cur 0x7E) s = exec (.setres cur 0x00) s) ∧
  (∀ (cur arg arg' : Byte) (s : State), arg &&& 0x81 = arg' &&& 0x81 →
    exec (.setres cur arg) s = exec (.setres cur arg') s) ∧
  (∀ (cur cur' arg : Byte) (s : State), cur &&& 0x7E = cur' &&& 0x7E →
    exec (.setres cur arg) s = exec (.setres cur' arg) s) ∧
  (∀ cur arg : Byte, arg &&& 0x81 = cur &&& 0x81 → setResolution cur arg = cur) ∧
  (∀ cur arg : Byte, setResolution (setResolution cur arg) arg = setResolution cur arg) ∧
  encode (.setres 0x02 0x81) = 0x30000281 ∧ setResolution 0x02 0x81 = 0x83 ∧ setResolution 0x83 0x00 = 0x02

/-- 41_codec.md R78, whole. TGLHTR completes in every state with `RES = CUR XOR 0x04` and `RV`, response 0b00 and
nothing else changed; its word; when its word is rejected; bit 2 inverted and every other bit kept; twice is once
undone; the worked examples. -/
def Obligations.TglhtrInvertsHeaterBit : Prop :=
  (∀ cur : Byte, encode (.tglhtr cur) = 0x40000000 ||| (cur.setWidth 32 <<< 8)) ∧
  (∀ (cur : Byte) (s : State),
    exec (.tglhtr cur) s = .next { s with
      block := { s.block with res := cur ^^^ 0x04, rv := true }
      answer := .resp 0b00 }) ∧
  (∀ w : Word, w.extractLsb' 28 4 = 0x4 → decode w =
    if w.extractLsb' 16 12 ≠ 0 ∨ w.extractLsb' 0 8 ≠ 0 then .reject .reservedField
    else .accept (.tglhtr (w.extractLsb' 8 8))) ∧
  (∀ (cur : Byte) (i : Nat), i < 8 →
    (toggleHeater cur).getLsbD i = if i = 2 then !cur.getLsbD i else cur.getLsbD i) ∧
  (∀ (cur : Byte) (s : State), ∃ t u : State, exec (.tglhtr cur) s = .next t ∧
    exec (.tglhtr t.block.res) t = .next u ∧ u.block.res = cur) ∧
  encode (.tglhtr 0x02) = 0x40000200 ∧ toggleHeater 0x02 = 0x06 ∧ toggleHeater 0x06 = 0x02

/-- 41_codec.md R79, whole. TGLOTP completes in every state with `RES = CUR XOR 0x02` and `RV`, response 0b00 and
nothing else changed; its word; when its word is rejected; bit 1 inverted and every other bit kept; twice is once
undone; from 0x02 it gives 0x00, which decodes with `OTPEN` 1. -/
def Obligations.TglotpInvertsReloadDisabledBit : Prop :=
  (∀ cur : Byte, encode (.tglotp cur) = 0x50000000 ||| (cur.setWidth 32 <<< 8)) ∧
  (∀ (cur : Byte) (s : State),
    exec (.tglotp cur) s = .next { s with
      block := { s.block with res := cur ^^^ 0x02, rv := true }
      answer := .resp 0b00 }) ∧
  (∀ w : Word, w.extractLsb' 28 4 = 0x5 → decode w =
    if w.extractLsb' 16 12 ≠ 0 ∨ w.extractLsb' 0 8 ≠ 0 then .reject .reservedField
    else .accept (.tglotp (w.extractLsb' 8 8))) ∧
  (∀ (cur : Byte) (i : Nat), i < 8 →
    (toggleOtp cur).getLsbD i = if i = 1 then !cur.getLsbD i else cur.getLsbD i) ∧
  (∀ (cur : Byte) (s : State), ∃ t u : State, exec (.tglotp cur) s = .next t ∧
    exec (.tglotp t.block.res) t = .next u ∧ u.block.res = cur) ∧
  (∀ s : State, ∃ t u : State, exec (.tglotp 0x02) s = .next t ∧ t.block.res = 0x00 ∧
    exec (.dec t.block.res) t = .next u ∧ u.block.otpen = true) ∧
  encode (.tglotp 0x02) = 0x50000200 ∧ toggleOtp 0x02 = 0x00 ∧ toggleOtp 0x00 = 0x02

/-- 41_codec.md R80, whole: the bit `i` of `RES` that each encoder leaves, from `CUR[i]`, `NOT CUR[i]` or `ARG[i]`. -/
def Obligations.EncodersSelectEachResultBit : Prop :=
  ∀ (cur arg : Byte) (s : State), ∃ t u v : State,
    exec (.setres cur arg) s = .next t ∧ exec (.tglhtr cur) s = .next u ∧ exec (.tglotp cur) s = .next v ∧
    (∀ i : Nat, i < 8 →
      t.block.res.getLsbD i = (if i = 7 ∨ i = 0 then arg.getLsbD i else cur.getLsbD i) ∧
      u.block.res.getLsbD i = (if i = 2 then !cur.getLsbD i else cur.getLsbD i) ∧
      v.block.res.getLsbD i = (if i = 1 then !cur.getLsbD i else cur.getLsbD i))

/-- 41_codec.md R75: each codec operation writes its own group and nothing else: DEC leaves every element but `FLD` and
`FV`, the encoders every element but `RES` and `RV`; none gives back anything but response 0b00. -/
def Obligations.CodecOperationsWriteOneGroup : Prop :=
  ∀ (cur arg : Byte) (s : State), ∃ t u v x : State,
    exec (.dec cur) s = .next t ∧ exec (.setres cur arg) s = .next u ∧ exec (.tglhtr cur) s = .next v ∧
    exec (.tglotp cur) s = .next x ∧
    t.block.resGroup = s.block.resGroup ∧ t.block.crcGroup = s.block.crcGroup ∧ t.block.illGroup = s.block.illGroup ∧
    (∀ y ∈ [u, v, x], y.block.fldGroup = s.block.fldGroup ∧ y.block.crcGroup = s.block.crcGroup ∧
      y.block.illGroup = s.block.illGroup) ∧
    (∀ y ∈ [t, u, v, x], y.answer = .resp 0b00 ∧ y.moves = s.moves ∧ y.rst = s.rst)

/-- 10_state.md R10 ("No operation reads any of these elements"), 41_codec.md R75: for every operation and every element
group, either the group it leaves is the same from every two states, or it leaves the group as it was in every state. -/
def Obligations.OperationsReadNoState : Prop :=
  ∀ i : Instr,
    ((∀ s s' t t' : State, exec i s = .next t → exec i s' = .next t' → t.block.crcGroup = t'.block.crcGroup) ∨
      (∀ s t : State, exec i s = .next t → t.block.crcGroup = s.block.crcGroup)) ∧
    ((∀ s s' t t' : State, exec i s = .next t → exec i s' = .next t' → t.block.resGroup = t'.block.resGroup) ∨
      (∀ s t : State, exec i s = .next t → t.block.resGroup = s.block.resGroup)) ∧
    ((∀ s s' t t' : State, exec i s = .next t → exec i s' = .next t' → t.block.fldGroup = t'.block.fldGroup) ∨
      (∀ s t : State, exec i s = .next t → t.block.fldGroup = s.block.fldGroup)) ∧
    (∀ s t : State, exec i s = .next t → t.block.illGroup = s.block.illGroup)

/-! ### The CRC -/

/-- 40_crc.md R68, whole: after `CRCV RAW, CHK` the low byte of `REM` is `crc8(RAW) XOR CHK` and the rest is zero, with
the consequences (a) to (d) and the count of verifying pairs. -/
def Obligations.RemainderIsCrcXorChecksum : Prop :=
  (∀ (raw : Raw) (s : State), ∃ t : State,
    exec (.crcv raw 0x00) s = .next t ∧ crc8 raw = t.block.rem.extractLsb' 0 8) ∧
  (∀ (raw : Raw) (chk : Byte) (s : State), ∃ t : State,
    exec (.crcv raw chk) s = .next t ∧ t.block.rem.extractLsb' 0 8 = crc8 raw ^^^ chk ∧
    t.block.rem.extractLsb' 8 16 = 0 ∧ (t.block.crcok = true ↔ chk = crc8 raw)) ∧
  (∀ raw : Raw, ∃! chk : Byte, crcRemainder raw chk = 0) ∧
  (∀ (raw : Raw) (chk e : Byte), e ≠ 0 → crcRemainder raw chk = 0 → crcRemainder raw (chk ^^^ e) ≠ 0) ∧
  (∀ a b : Raw, crc8 (a ^^^ b) = crc8 a ^^^ crc8 b) ∧ crc8 0x0000 = 0x00 ∧
  Nat.card { p : Raw × Byte // crcRemainder p.1 p.2 = 0 } = 65536

/-- 40_crc.md R69, whole: the loop invariant before iteration `i`, what one iteration does to the bits above and at the
bit under test, and that `REM` is at most 0x0000FF with `CRCOK` exactly when its low byte is zero. -/
def Obligations.LongDivisionClearsHighBits : Prop :=
  (∀ (rem0 : Rem) (i : Nat), i < 16 →
    (crcLoop rem0 i).1 >>> (24 - i) = 0 ∧ (crcLoop rem0 i).2 = (0x988000 : Rem) >>> i ∧
    (crcLoop rem0 i).2.getLsbD (23 - i) = true ∧ (crcLoop rem0 i).2 >>> (24 - i) = 0 ∧
    (crcLoop rem0 i).2.getLsbD (15 - i) = true ∧ (∀ j < 15 - i, (crcLoop rem0 i).2.getLsbD j = false)) ∧
  (∀ (rem0 : Rem) (i : Nat), i < 16 →
    ((crcLoop rem0 i).1.getLsbD (23 - i) = true →
      (crcLoop rem0 (i + 1)).1.getLsbD (23 - i) = false ∧
      (crcLoop rem0 (i + 1)).1 >>> (24 - i) = (crcLoop rem0 i).1 >>> (24 - i)) ∧
    ((crcLoop rem0 i).1.getLsbD (23 - i) = false → (crcLoop rem0 (i + 1)).1 = (crcLoop rem0 i).1) ∧
    (crcLoop rem0 (i + 1)).1 >>> (23 - i) = 0) ∧
  (∀ (raw : Raw) (chk : Byte) (s : State), ∃ t : State, exec (.crcv raw chk) s = .next t ∧
    t.block.rem.extractLsb' 8 16 = 0 ∧ t.block.rem ≤ 0x0000FF ∧
    (t.block.crcok = true ↔ t.block.rem.extractLsb' 0 8 = 0x00))

/-- 40_crc.md R70, whole: at every working width of 24 bits or more the division gives the same low 24 bits and zeros
above, and at every smaller width the initial remainder loses a bit of `RAW`. -/
def Obligations.DivisionIndependentOfWidth : Prop :=
  (∀ (n : Nat) (raw : Raw) (chk : Byte), 24 ≤ n →
    crcDivide (initialRemainder n raw chk) = (crcRemainder raw chk).setWidth n) ∧
  (∀ (n : Nat) (chk : Byte), n < 24 →
    ∃ raw raw' : Raw, raw ≠ raw' ∧ initialRemainder n raw chk = initialRemainder n raw' chk)

/-- 40_crc.md R72, whole: the corner cases (a) to (f) of CRCV. In (d) the changed bits are `i`, `j`, `k` of the 24 frame
bits, equal or not, so one, two or three of them. -/
def Obligations.CrcvCornerCases : Prop :=
  ((∀ k ≤ 16, (crcLoop (0x000000 : Rem) k).1 = 0) ∧ crcRemainder 0x0000 0x00 = 0) ∧
  (crc8 0xFFFF = 0x2D ∧ crcRemainder 0xFFFF 0xFF = 0x0000D2) ∧
  (crc8 0x683A = 0x7C ∧ crc8 0x6838 = 0x1E) ∧
  ((∀ (raw : Raw) (chk : Byte) (i : Nat), i < 16 → crc8 (BitVec.twoPow 16 i) ≠ 0x00 ∧
      (crcRemainder raw chk = 0 → crcRemainder (raw ^^^ BitVec.twoPow 16 i) chk ≠ 0)) ∧
    (∀ (frame : Rem) (i j k : Nat), i < 24 → j < 24 → k < 24 → crcDivide frame = 0 →
      crcDivide (frame ^^^ (BitVec.twoPow 24 i ||| BitVec.twoPow 24 j ||| BitVec.twoPow 24 k)) ≠ 0) ∧
    (crcDivide (0x683A7C : Rem) = 0 ∧ crcDivide (0xE83A5F : Rem) = 0 ∧
      (0x683A7C : Rem) ^^^ 0xE83A5F =
        BitVec.twoPow 24 23 ||| BitVec.twoPow 24 5 ||| BitVec.twoPow 24 1 ||| BitVec.twoPow 24 0) ∧
    Nat.card { frame : Rem // crcDivide frame = 0 } = 2 ^ 16) ∧
  (∀ (raw : Raw) (chk : Byte) (s s' : State), ∃ t t' u : State,
    exec (.crcv raw chk) s = .next t ∧ exec (.crcv raw chk) s' = .next t' ∧ exec (.crcv raw chk) t = .next u ∧
    t'.block.crcGroup = t.block.crcGroup ∧ u.block.crcGroup = t.block.crcGroup)

/-- 40_crc.md R73, whole: `crc8` is the conventional bitwise CRC-8, most significant bit first, generator 0x31, initial
value 0x00, no reflection and no final XOR, over the high byte and then the low byte of `RAW`. -/
def Obligations.CrcEqualsConventionalCrc8 : Prop :=
  ∀ raw : Raw, crc8 raw =
    [raw.extractLsb' 8 8, raw.extractLsb' 0 8].foldl (fun (c b : Byte) =>
      (List.range 8).foldl (fun (c : Byte) _ => if c.getLsbD 7 = true then ((c <<< 1) &&& 0xFF) ^^^ 0x31 else (c <<< 1) &&& 0xFF)
        (c ^^^ b)) 0x00

/-- 70_reset_and_hazards.md R113, the facts for the block: a zero raw value with a zero checksum verifies, and with any
other checksum it fails; either way the word is accepted and no rejection is recorded (40_crc.md R71). -/
def Obligations.ZeroRawVerifiesOnlyZeroChecksum : Prop :=
  ∀ (chk : Byte) (s : State), ∃ t : State, exec (.crcv 0x0000 chk) s = .next t ∧
    (t.block.crcok = true ↔ chk = 0x00) ∧ t.block.illGroup = s.block.illGroup ∧ t.answer = .resp 0b00

/-! ### The codec's laws -/

/-- 41_codec.md R81, whole: the laws (a) to (f) of the three encoders and of decoding what they give. -/
def Obligations.CodecLaws : Prop :=
  (∀ c a : Byte, setResolution c a = (c &&& 0x7E) ||| (a &&& 0x81) ∧ toggleHeater c = c ^^^ 0x04 ∧
    toggleOtp c = c ^^^ 0x02) ∧
  (∀ c : Byte, toggleHeater (toggleHeater c) = c ∧ toggleOtp (toggleOtp c) = c) ∧
  (∀ c : Byte, toggleHeater (toggleOtp c) = c ^^^ 0x06 ∧ toggleOtp (toggleHeater c) = c ^^^ 0x06) ∧
  (∀ c a b : Byte, setResolution (setResolution c a) b = setResolution c b) ∧
  (∀ c a : Byte, setResolution (toggleHeater c) a = toggleHeater (setResolution c a) ∧
    setResolution (toggleOtp c) a = toggleOtp (setResolution c a)) ∧
  (∀ (c a : Byte) (s : State), ∃ t0 t u v : State,
    exec (.dec c) s = .next t0 ∧ exec (.dec (setResolution c a)) s = .next t ∧
    exec (.dec (toggleHeater c)) s = .next u ∧ exec (.dec (toggleOtp c)) s = .next v ∧
    t.block = { t0.block with rsel := BitVec.ofBool (a.getLsbD 7) ++ BitVec.ofBool (a.getLsbD 0) } ∧
    u.block = { t0.block with htr := !t0.block.htr } ∧
    v.block = { t0.block with otpd := !t0.block.otpd, otpen := !t0.block.otpen }) ∧
  (∀ c a x : Byte, x ∈ [setResolution c a, toggleHeater c, toggleOtp c] →
    x.getLsbD 6 = c.getLsbD 6 ∧ x.extractLsb' 3 3 = c.extractLsb' 3 3)

/-! ### Encoding and decoding -/

/-- 30_encoding.md R49 to R51 ("every value legal"), R53: the decoder reads back every operation, with every operand at
every value, from its own word. -/
def Obligations.DecodeReadsBackEncode : Prop := ∀ i : Instr, decode (encode i) = .accept i

/-- 30_encoding.md R54, R55: an accepted word is exactly the word of the operation it decodes to, so each legal word has
one meaning and no bit of it is dropped. -/
def Obligations.EncodeReadsBackDecode : Prop := ∀ (w : Word) (i : Instr), decode w = .accept i → encode i = w

/-- 30_encoding.md R54, whole: the one outcome of every word, in the order of the rule. -/
def Obligations.DecodeFollowsRuleOrder : Prop :=
  ∀ w : Word, decode w =
    if w.extractLsb' 28 4 ∉ ([0x1, 0x2, 0x3, 0x4, 0x5] : List (BitVec 4)) then .reject .illegalOpcode
    else if w.extractLsb' 24 4 ≠ 0b0000 then .reject .reservedField
    else if w.extractLsb' 28 4 = 0x1 then .accept (.crcv (w.extractLsb' 8 16) (w.extractLsb' 0 8))
    else if w.extractLsb' 16 8 ≠ 0x00 then .reject .reservedField
    else if w.extractLsb' 28 4 = 0x3 then .accept (.setres (w.extractLsb' 8 8) (w.extractLsb' 0 8))
    else if w.extractLsb' 0 8 ≠ 0x00 then .reject .reservedField
    else if w.extractLsb' 28 4 = 0x2 then .accept (.dec (w.extractLsb' 8 8))
    else if w.extractLsb' 28 4 = 0x4 then .accept (.tglhtr (w.extractLsb' 8 8))
    else .accept (.tglotp (w.extractLsb' 8 8))

/-- 30_encoding.md R53, whole: a word selects an operation exactly when it matches its row under the row's mask; the
reserved operation codes are rejected; the rows are disjoint; the number of legal words. -/
def Obligations.OpcodeMapSelectsByMatchAndMask : Prop :=
  (∀ w : Word,
    (w &&& 0xFF000000 = 0x10000000 ↔ decode w = .accept (.crcv (w.extractLsb' 8 16) (w.extractLsb' 0 8))) ∧
    (w &&& 0xFFFF00FF = 0x20000000 ↔ decode w = .accept (.dec (w.extractLsb' 8 8))) ∧
    (w &&& 0xFFFF0000 = 0x30000000 ↔ decode w = .accept (.setres (w.extractLsb' 8 8) (w.extractLsb' 0 8))) ∧
    (w &&& 0xFFFF00FF = 0x40000000 ↔ decode w = .accept (.tglhtr (w.extractLsb' 8 8))) ∧
    (w &&& 0xFFFF00FF = 0x50000000 ↔ decode w = .accept (.tglotp (w.extractLsb' 8 8)))) ∧
  (∀ (w : Word) (i : Instr), decode w = .accept i → w &&& (rowOf i).mask = (rowOf i).pattern) ∧
  (∀ w : Word, w.extractLsb' 28 4 = 0x0 ∨ 0x6 ≤ w.extractLsb' 28 4 → decode w = .reject .illegalOpcode) ∧
  opcodeTable.Pairwise (fun a b => ∀ w : Word, ¬(w &&& a.mask = a.pattern ∧ w &&& b.mask = b.pattern)) ∧
  Nat.card { w : Word // (decode w).instr?.isSome = true } = 16843520

/-- 30_encoding.md section 9: the seven worked words, read bit by bit. -/
def Obligations.WorkedWordsDecode : Prop :=
  decode 0x10683A7C = .accept (.crcv 0x683A 0x7C) ∧ decode 0x20000200 = .accept (.dec 0x02) ∧
  decode 0x30000281 = .accept (.setres 0x02 0x81) ∧ decode 0x40000200 = .accept (.tglhtr 0x02) ∧
  decode 0x50000200 = .accept (.tglotp 0x02) ∧ decode 0x20010200 = .reject .reservedField ∧
  decode 0x60000000 = .reject .illegalOpcode

/-- 30_encoding.md R56: the operation word of each line of the written syntax whose operands are in range. That any other
line has no word is the model's reading (log 12). -/
def Obligations.AssemblerFollowsSyntaxTable : Prop :=
  (∀ raw chk : Nat, raw < 65536 → chk < 256 → assemble (.crcv raw chk) =
    some (0x10000000 ||| (BitVec.ofNat 32 raw <<< 8) ||| BitVec.ofNat 32 chk)) ∧
  (∀ cur : Nat, cur < 256 → assemble (.dec cur) = some (0x20000000 ||| (BitVec.ofNat 32 cur <<< 8))) ∧
  (∀ cur arg : Nat, cur < 256 → arg < 256 → assemble (.setres cur arg) =
    some (0x30000000 ||| (BitVec.ofNat 32 cur <<< 8) ||| BitVec.ofNat 32 arg)) ∧
  (∀ cur : Nat, cur < 256 → assemble (.tglhtr cur) = some (0x40000000 ||| (BitVec.ofNat 32 cur <<< 8))) ∧
  (∀ cur : Nat, cur < 256 → assemble (.tglotp cur) = some (0x50000000 ||| (BitVec.ofNat 32 cur <<< 8))) ∧
  (∀ v : Nat, v < 2 ^ 32 → assemble (.word v) = some (BitVec.ofNat 32 v)) ∧
  (∀ raw chk : Nat, 65536 ≤ raw ∨ 256 ≤ chk → assemble (.crcv raw chk) = none) ∧
  (∀ cur arg : Nat, 256 ≤ cur ∨ 256 ≤ arg → assemble (.setres cur arg) = none) ∧
  (∀ cur : Nat, 256 ≤ cur → assemble (.dec cur) = none ∧ assemble (.tglhtr cur) = none ∧
    assemble (.tglotp cur) = none) ∧
  (∀ v : Nat, 2 ^ 32 ≤ v → assemble (.word v) = none)

/-- 30_encoding.md R57, whole: `CRCG raw` is `CRCV raw, 0x00`; after it `REM[7:0]` is the checksum that makes `raw`
verify, and `CRCOK` is 1 only if that checksum is 0x00. -/
def Obligations.CrcgGeneratesVerifyingChecksum : Prop :=
  (∀ raw : Nat, assemble (.crcg raw) = assemble (.crcv raw 0)) ∧
  (∀ (raw : Raw) (s : State), lineInstr? (.crcg raw.toNat) = some (.crcv raw 0x00) ∧
    ∃ t u : State, exec (.crcv raw 0x00) s = .next t ∧
      exec (.crcv raw (t.block.rem.extractLsb' 0 8)) t = .next u ∧ u.block.crcok = true ∧
      (t.block.crcok = true ↔ t.block.rem.extractLsb' 0 8 = 0x00))

/-- 20_memory.md R34: a three-byte frame in bus order is `RAW = {B0, B1}` and `CHK = B2`, its word carries the frame as
one big-endian number, which is the initial remainder; and that a frame of another length
has no word is the model's reading of R36 (log 15). -/
def Obligations.FrameIsBigEndian : Prop :=
  (∀ b0 b1 b2 : Byte, ∃ (raw : Raw) (chk : Byte) (w : Word),
    frameOperands [b0, b1, b2] = some (raw, chk) ∧ raw.extractLsb' 8 8 = b0 ∧ raw.extractLsb' 0 8 = b1 ∧ chk = b2 ∧
    frameWord [b0, b1, b2] = some w ∧ decode w = .accept (.crcv raw chk) ∧
    w.extractLsb' 16 8 = b0 ∧ w.extractLsb' 8 8 = b1 ∧ w.extractLsb' 0 8 = b2 ∧
    w.extractLsb' 0 24 = initialRemainder 24 raw chk) ∧
  (∀ frame : List Byte, frame.length ≠ 3 → frameWord frame = none)

/-! ### The rejection -/

/-- 60_exceptions.md R91, whole: a rejected word sets `ILL`, records and responds the code of its cause, and changes
nothing else; an accepted word responds 0b00 and leaves `ILL` and `ECAUSE`. -/
def Obligations.RejectionIsPrecise : Prop :=
  (∀ (s : State) (w : Word) (rest : List HostMove) (c : Cause), s.rst = false → s.moves = .issue w :: rest →
    decode w = .reject c →
    step s = .next { s with
      moves := rest
      block := { s.block with ill := true, ecause := match c with
        | .illegalOpcode => 0b01
        | .reservedField => 0b10 }
      answer := .resp (match c with
        | .illegalOpcode => 0b01
        | .reservedField => 0b10) }) ∧
  (∀ (s : State) (w : Word) (rest : List HostMove) (i : Instr), s.rst = false → s.moves = .issue w :: rest →
    decode w = .accept i →
    ∃ t : State, step s = .next t ∧ t.answer = .resp 0b00 ∧ t.block.ill = s.block.ill ∧
      t.block.ecause = s.block.ecause)

/-- 30_encoding.md R55, 60_exceptions.md R92, R93, whole: IllegalOpcode exactly when the operation code is none of 0x1 to
0x5, whatever the other bits hold; ReservedField exactly when it is one of them and a reserved field of its format is not
zero; what each records; the examples, among them the all-zero and the all-ones word. -/
def Obligations.RejectedWordsAndCauses : Prop :=
  (∀ w : Word, decode w = .reject .illegalOpcode ↔ w.extractLsb' 28 4 = 0x0 ∨ 0x6 ≤ w.extractLsb' 28 4) ∧
  (∀ w : Word, decode w = .reject .reservedField ↔
    w.extractLsb' 28 4 ∈ ([0x1, 0x2, 0x3, 0x4, 0x5] : List (BitVec 4)) ∧
    (w.extractLsb' 24 4 ≠ 0 ∨
      (w.extractLsb' 28 4 ∈ ([0x2, 0x3, 0x4, 0x5] : List (BitVec 4)) ∧ w.extractLsb' 16 8 ≠ 0) ∨
      (w.extractLsb' 28 4 ∈ ([0x2, 0x4, 0x5] : List (BitVec 4)) ∧ w.extractLsb' 0 8 ≠ 0))) ∧
  (∀ (s : State) (w : Word) (rest : List HostMove), s.rst = false → s.moves = .issue w :: rest →
    (decode w = .reject .illegalOpcode →
      step s = .next { s with
        moves := rest
        block := { s.block with ill := true, ecause := 0b01 }
        answer := .resp 0b01 }) ∧
    (decode w = .reject .reservedField →
      step s = .next { s with
        moves := rest
        block := { s.block with ill := true, ecause := 0b10 }
        answer := .resp 0b10 })) ∧
  (∀ w ∈ ([0x00000000, 0xFFFFFFFF, 0x60000000, 0x0F683A7C] : List Word), decode w = .reject .illegalOpcode) ∧
  (∀ w ∈ ([0x11683A7C, 0x20010200, 0x40000201, 0x30010281] : List Word), decode w = .reject .reservedField)

/-- 60_exceptions.md R90, whole: how many words are accepted, rejected with IllegalOpcode and rejected with
ReservedField; the codes; no third code; and no operation raises anything while it executes. -/
def Obligations.RejectionIsTheOneException : Prop :=
  Nat.card { w : Word // (decode w).cause? = none } = 16843520 ∧
  Nat.card { w : Word // (decode w).cause? = some .illegalOpcode } = 11 * 2 ^ 28 ∧
  Nat.card { w : Word // (decode w).cause? = some .reservedField } = 2 ^ 32 - 11 * 2 ^ 28 - 16843520 ∧
  causeCode .illegalOpcode = 0b01 ∧ causeCode .reservedField = 0b10 ∧ (∀ c : Cause, causeCode c ≠ 0b11) ∧
  (∀ (i : Instr) (s : State), ∃ t : State, exec i s = .next t ∧ t.answer = .resp 0b00 ∧
    t.block.illGroup = s.block.illGroup)

/-- 60_exceptions.md R95: after a rejection a following legal word executes exactly as it would have without it, but for
`ILL` and `ECAUSE`; a second rejection sets `ECAUSE` anew with `ILL` still 1; and `ILL` falls only by a reset. -/
def Obligations.LegalWordAfterRejectionRunsNormally : Prop :=
  (∀ (s : State) (w w' : Word) (rest : List HostMove) (c : Cause) (i : Instr), s.rst = false →
    s.moves = .issue w :: .issue w' :: rest → decode w = .reject c → decode w' = .accept i →
    ∃ t u v : State, step s = .next t ∧ step t = .next u ∧ exec i { s with moves := rest } = .next v ∧
      u = { v with block := { v.block with ill := true, ecause := causeCode c } }) ∧
  (∀ (s : State) (w w' : Word) (rest : List HostMove) (c c' : Cause), s.rst = false →
    s.moves = .issue w :: .issue w' :: rest → decode w = .reject c → decode w' = .reject c' →
    ∃ t u : State, step s = .next t ∧ step t = .next u ∧
      u.block = { s.block with ill := true, ecause := causeCode c' } ∧ u.answer = .resp (causeCode c')) ∧
  (∀ s t : State, s.resetting = false → step s = .next t → s.block.ill = true → t.block.ill = true)

/-- 60_exceptions.md R96: the step returns a next state, in every state and so for every word. -/
def Obligations.StepIsTotal : Prop := ∀ s : State, ∃ t : State, step s = .next t

/-! ### The step, the read port and reset -/

/-- 20_memory.md R37, 30_encoding.md R54: when the host's next move is a word that decodes to the operation `i` and `rst`
is not asserted, the step is `exec i` with the move taken, and nothing around it (log 1). -/
def Obligations.StepRunsDecodedOperation : Prop :=
  ∀ (s : State) (w : Word) (rest : List HostMove) (i : Instr), s.rst = false → s.moves = .issue w :: rest →
    decode w = .accept i → step s = exec i { s with moves := rest }

/-- 10_state.md R17, 20_memory.md R31, R39: every field of the four read words and the zeros between; and at all times, with
`rst` released or asserted (log 3), a read at any `raddr` gives back the selected word of the elements as they then are,
changes no element, and gives the same when repeated. -/
def Obligations.ReadWordsShowEachField : Prop :=
  (∀ b : Block,
    (readWord b 0).getLsbD 0 = b.crcok ∧ (readWord b 0).getLsbD 1 = b.cv ∧ (readWord b 0).getLsbD 2 = b.rv ∧
    (readWord b 0).getLsbD 3 = b.fv ∧ (readWord b 0).getLsbD 4 = b.ill ∧
    (readWord b 0).extractLsb' 5 2 = b.ecause ∧ (readWord b 0).extractLsb' 7 17 = 0 ∧
    readWord b 1 = b.rem ∧
    (readWord b 2).extractLsb' 0 8 = b.res ∧ (readWord b 2).extractLsb' 8 16 = 0 ∧
    (readWord b 3).extractLsb' 0 2 = b.rsel ∧ (readWord b 3).getLsbD 2 = b.eob ∧ (readWord b 3).getLsbD 3 = b.htr ∧
    (readWord b 3).getLsbD 4 = b.otpd ∧ (readWord b 3).getLsbD 5 = b.otpen ∧ (readWord b 3).extractLsb' 6 18 = 0) ∧
  (∀ (s : State) (raddr : BitVec 2) (rest : List HostMove), s.moves = .read raddr :: .read raddr :: rest →
    ∃ (b : Block) (t u : State), b = (if s.rst = true then Block.reset else s.block) ∧
      step s = .next t ∧ step t = .next u ∧ t.answer = .rdata (readWord b raddr) ∧ u.answer = t.answer ∧
      t.block = b ∧ u.block = b ∧ u.moves = rest ∧ t.rst = s.rst ∧ u.rst = s.rst)

/-- 70_reset_and_hazards.md R117: the four read words between them show all of the block's state. -/
def Obligations.ReadWordsDetermineBlock : Prop :=
  ∀ b c : Block, (∀ raddr : BitVec 2, readWord b raddr = readWord c raddr) → b = c

/-- 70_reset_and_hazards.md R109, 20_memory.md R40: when the block has responded to a word, accepted or rejected, a read
that follows shows every write of that word. -/
def Obligations.ReadAfterWordSeesItsWrites : Prop :=
  ∀ (s : State) (w : Word) (raddr : BitVec 2) (rest : List HostMove), s.rst = false →
    s.moves = .issue w :: .read raddr :: rest →
    ∃ t u : State, step s = .next t ∧ step t = .next u ∧ u.block = t.block ∧
      u.answer = .rdata (readWord (match decode w with
        | .accept (.crcv raw chk) => { s.block with
            rem := crcRemainder raw chk, crcok := decide (crcRemainder raw chk = 0), cv := true }
        | .accept (.dec cur) => { s.block with
            rsel := urRsel cur, eob := cur.getLsbD 6, htr := cur.getLsbD 2, otpd := cur.getLsbD 1,
            otpen := !cur.getLsbD 1, fv := true }
        | .accept (.setres cur arg) => { s.block with res := (cur &&& 0x7E) ||| (arg &&& 0x81), rv := true }
        | .accept (.tglhtr cur) => { s.block with res := cur ^^^ 0x04, rv := true }
        | .accept (.tglotp cur) => { s.block with res := cur ^^^ 0x02, rv := true }
        | .reject c => { s.block with ill := true, ecause := causeCode c }) raddr)

/-- 10_state.md R24, whole: the reset value of every element, and the four read words after reset. -/
def Obligations.ResetValues : Prop :=
  State.reset.block = { rem := 0x000000, crcok := false, cv := false, res := 0x00, rv := false, rsel := 0b00,
                        eob := false, htr := false, otpd := false, otpen := false, fv := false, ill := false,
                        ecause := 0b00 } ∧
  (∀ raddr : BitVec 2, readWord State.reset.block raddr = 0x000000)

/-- 70_reset_and_hazards.md R105, 10_state.md R23. That the level `rst` stands in State, that a reset is two of the host's
moves, and that a word presented while `rst` is asserted is passed over without a response, are the model's (log 3). From
every state: asserting `rst` gives every element its reset value; while `rst` is asserted no step takes a word, and every
step, the release included, leaves the reset values; the move reset of R118 leaves the reset values and `rst` released;
and nothing else clears a written mark, `ILL` or `ECAUSE`. -/
def Obligations.ResetRestoresEveryElement : Prop :=
  (∀ (s : State) (rest : List HostMove), s.moves = .assertRst :: rest →
    step s = .next { block := State.reset.block, rst := true, moves := rest, answer := .nothing }) ∧
  (∀ (s : State) (rest : List HostMove), s.rst = true → s.moves = .releaseRst :: rest →
    step s = .next { block := State.reset.block, rst := false, moves := rest, answer := .nothing }) ∧
  (∀ (s : State) (w : Word) (rest : List HostMove), s.rst = true → s.moves = .issue w :: rest →
    step s = .next { block := State.reset.block, rst := true, moves := rest, answer := .nothing }) ∧
  (∀ s : State, s.rst = true → ∃ t : State, step s = .next t ∧ t.block = State.reset.block ∧
    t.rst = (s.moves.head? != some .releaseRst)) ∧
  (∀ (s : State) (rest : List HostMove), s.moves = hostReset ++ rest → ∃ t : State, step s = .next t ∧
    step t = .next { block := State.reset.block, rst := false, moves := rest, answer := .nothing }) ∧
  (∀ s t : State, s.resetting = false → step s = .next t →
    (s.block.cv = true → t.block.cv = true) ∧ (s.block.rv = true → t.block.rv = true) ∧
    (s.block.fv = true → t.block.fv = true) ∧ (s.block.ill = true → t.block.ill = true) ∧
    (s.block.ecause ≠ 0b00 → t.block.ecause ≠ 0b00))

/-- 60_exceptions.md R97, R101: with no move of the host pending nothing happens: with `rst` released the step keeps the
whole state, with `rst` asserted it holds the reset values. That such a step is a next state is the model's reading
(log 4), and the level `rst` in State its choice (log 3). -/
def Obligations.NothingHappensWithoutMove : Prop :=
  (∀ s : State, s.rst = false → s.moves = [] → step s = .next s) ∧
  (∀ s : State, s.rst = true → s.moves = [] → step s = .next { s with block := State.reset.block })

/-- 70_reset_and_hazards.md R107: an operation leaves every group but its own, whatever the state: CRCV the results of the
others, the encoders those of CRCV and DEC, DEC those of CRCV and the encoders; a rejected word disturbs no result. -/
def Obligations.GroupsDoNotDisturbEachOther : Prop :=
  ∀ (s : State) (w : Word) (rest : List HostMove), s.rst = false → s.moves = .issue w :: rest →
    ∃ t : State, step s = .next t ∧
      (w.extractLsb' 28 4 ≠ 0x1 → t.block.crcGroup = s.block.crcGroup) ∧
      (w.extractLsb' 28 4 ≠ 0x2 → t.block.fldGroup = s.block.fldGroup) ∧
      (w.extractLsb' 28 4 ≠ 0x3 → w.extractLsb' 28 4 ≠ 0x4 → w.extractLsb' 28 4 ≠ 0x5 →
        t.block.resGroup = s.block.resGroup) ∧
      ((decode w).instr? = none → t.block.crcGroup = s.block.crcGroup ∧ t.block.fldGroup = s.block.fldGroup ∧
        t.block.resGroup = s.block.resGroup)

/-! ### Invariants and runs -/

/-- 10_state.md R18 (I1 to I5), with the legal response (60_exceptions.md R90) and the held reset (R105, log 3): the
invariant holds at reset. -/
def Obligations.ResetStateMeetsInvariant : Prop := State.reset.Inv

/-- 10_state.md R18 (I1 to I5), with the legal response and the held reset (log 3): every step from a state that meets
the invariant gives a state that meets it. -/
def Obligations.EveryStepKeepsInvariant : Prop := ∀ s t : State, s.Inv → step s = .next t → t.Inv

/-- 10_state.md R18: I1 to I5 in every state a run reaches from reset, whatever the host's moves; I6 in every step that
is no reset, a reset being two moves by the model's choice (log 3); and that at reset `REM` is zero while `CRCOK` and `CV` are. -/
def Obligations.ReachableStatesMeetInvariants : Prop :=
  (∀ (ms : List HostMove) (n : Nat) (t : State),
    Host.Core.run Sys2Proof.core n ({ State.reset with moves := ms } : State) = .next t →
    t.block.rem.extractLsb' 8 16 = 0 ∧
    (t.block.crcok = true → t.block.cv = true ∧ t.block.rem = 0) ∧
    (t.block.cv = true → (t.block.crcok = true ↔ t.block.rem = 0)) ∧
    (t.block.fv = true → t.block.otpen = !t.block.otpd) ∧
    ((t.block.ill = true ↔ t.block.ecause ≠ 0b00) ∧ t.block.ecause ≠ 0b11)) ∧
  (∀ s t : State, s.resetting = false → step s = .next t →
    (s.block.cv = true → t.block.cv = true) ∧ (s.block.rv = true → t.block.rv = true) ∧
    (s.block.fv = true → t.block.fv = true) ∧ (s.block.ill = true → t.block.ill = true)) ∧
  (State.reset.block.rem = 0 ∧ State.reset.block.crcok = false ∧ State.reset.block.cv = false)

/-- 10_state.md R12 to R16, 70_reset_and_hazards.md R105, R107, R117: after any sequence of the host's moves from reset, run
to its end, every element holds what the words taken since the last reset determine: each group the result of the most
recent operation of its group or its reset value, `ILL` whether a word was rejected, `ECAUSE` the cause of the most
recent one. That the moves stand in State as a list (log 1), and that a reset is two of them with any other move allowed
between (log 3), is the model's choice. -/
def Obligations.RunLeavesMostRecentResults : Prop :=
  ∀ ms : List HostMove, ∃ t : State,
    Host.Core.run Sys2Proof.core ms.length ({ State.reset with moves := ms } : State) = .next t ∧
    t.block = blockOfWords (takenSinceReset ms).2 ∧ t.rst = (takenSinceReset ms).1 ∧ t.moves = []
end

