-- ==== Sys2Proof/Laws/Crc.lean ====
section
/-!
SUPPORT. The equations of the CRC's long division, one iteration at a time.
-/

namespace Sys2Proof.Machine

@[simp] theorem crcLoop_zero {n : Nat} (rem0 : BitVec n) : crcLoop rem0 0 = (rem0, BitVec.ofNat n 0x988000) := rfl

theorem crcLoop_succ {n : Nat} (rem0 : BitVec n) (k : Nat) :
    crcLoop rem0 (k + 1) = crcIter k (crcLoop rem0 k) := rfl

/-- The divisor shifts in every iteration (90_conflicts.md C5): before iteration `k` it has moved `k` places. -/
theorem crcLoop_divisor {n : Nat} (rem0 : BitVec n) (k : Nat) :
    (crcLoop rem0 k).2 = BitVec.ofNat n 0x988000 >>> k := by
  induction k with
  | zero => simp
  | succ k ih =>
    rw [crcLoop_succ]
    show (crcLoop rem0 k).2 >>> 1 = _
    rw [ih, ← BitVec.shiftRight_add]

/-- The remainder after one more iteration. -/
theorem crcLoop_remainder {n : Nat} (rem0 : BitVec n) (k : Nat) :
    (crcLoop rem0 (k + 1)).1 =
      if (crcLoop rem0 k).1.getLsbD (23 - k) then (crcLoop rem0 k).1 ^^^ (BitVec.ofNat n 0x988000 >>> k)
      else (crcLoop rem0 k).1 := by
  rw [crcLoop_succ, ← crcLoop_divisor rem0 k]
  rfl

theorem crcDivide_eq {n : Nat} (rem0 : BitVec n) : crcDivide rem0 = (crcLoop rem0 16).1 := rfl

end Sys2Proof.Machine
end

