-- ==== Sys2Proof/Laws/Decode.lean ====
section
/-!
SUPPORT. The fields of a word in each format, and the decoder once the operation code is known.
-/

namespace Sys2Proof

/-- Every operation is well formed (R49 to R51). -/
@[simp] theorem instr_wf (i : Instr) : i.wf = true := by
  cases i <;> rfl

/-- The fields of a word of format C (30_encoding.md R48, R49). -/
theorem formatC_fields (opc : BitVec 4) (raw : Raw) (chk : Byte) :
    fieldOpc (formatC opc raw chk) = opc ∧ fieldZ1 (formatC opc raw chk) = 0 ∧
      fieldRaw (formatC opc raw chk) = raw ∧ fieldChk (formatC opc raw chk) = chk := by
  refine ⟨?_, ?_, ?_, ?_⟩ <;> refine BitVec.eq_of_getLsbD_eq fun i hi => ?_ <;>
    simp only [fieldOpc, fieldZ1, fieldRaw, fieldChk, formatC, BitVec.getLsbD_extractLsb', BitVec.getLsbD_append] <;>
    interval_cases i <;> simp

/-- The fields of a word of format R2 (R48, R50). -/
theorem formatR2_fields (opc : BitVec 4) (cur arg : Byte) :
    fieldOpc (formatR2 opc cur arg) = opc ∧ fieldZ1 (formatR2 opc cur arg) = 0 ∧
      fieldZ2 (formatR2 opc cur arg) = 0 ∧ fieldCur (formatR2 opc cur arg) = cur ∧
      fieldArg (formatR2 opc cur arg) = arg := by
  refine ⟨?_, ?_, ?_, ?_, ?_⟩ <;> refine BitVec.eq_of_getLsbD_eq fun i hi => ?_ <;>
    simp only [fieldOpc, fieldZ1, fieldZ2, fieldCur, fieldArg, formatR2, BitVec.getLsbD_extractLsb',
      BitVec.getLsbD_append] <;>
    interval_cases i <;> simp

/-- The fields of a word of format R1 (R48, R51). -/
theorem formatR1_fields (opc : BitVec 4) (cur : Byte) :
    fieldOpc (formatR1 opc cur) = opc ∧ fieldZ1 (formatR1 opc cur) = 0 ∧ fieldZ2 (formatR1 opc cur) = 0 ∧
      fieldCur (formatR1 opc cur) = cur ∧ fieldZ3 (formatR1 opc cur) = 0 := by
  refine ⟨?_, ?_, ?_, ?_, ?_⟩ <;> refine BitVec.eq_of_getLsbD_eq fun i hi => ?_ <;>
    simp only [fieldOpc, fieldZ1, fieldZ2, fieldCur, fieldZ3, formatR1, BitVec.getLsbD_extractLsb',
      BitVec.getLsbD_append] <;>
    interval_cases i <;> simp

/-- Two words with the same bits are the same word. -/
theorem word_ext {w v : Word} (h : ∀ i, i < 32 → w.getLsbD i = v.getLsbD i) : w = v :=
  BitVec.eq_of_getLsbD_eq h

/-- A word whose operation code is not in use is rejected with IllegalOpcode, whatever its other bits hold (R92). -/
theorem decode_of_undefined_opc {w : Word} (h : definedOpc (fieldOpc w) = false) :
    decode w = .reject .illegalOpcode := by
  simp [decode, h]

/-- A word with an operation code in use and `Z1` not zero is rejected with ReservedField (R93). -/
theorem decode_of_z1_ne_zero {w : Word} (h : definedOpc (fieldOpc w) = true) (hz : fieldZ1 w ≠ 0) :
    decode w = .reject .reservedField := by
  rw [decode, if_neg (by simp [h]), if_pos hz]

end Sys2Proof
end

