-- ==== Sys2Proof/Laws/HostMoves.lean ====
section
/-!
SUPPORT. The read space word by word, and what each step around `exec` leaves.
-/

namespace Sys2Proof.Machine

@[simp] theorem readWord_zero (b : Block) : readWord b 0 = statusWord b := rfl
@[simp] theorem readWord_one (b : Block) : readWord b 1 = b.rem := rfl
@[simp] theorem readWord_two (b : Block) : readWord b 2 = resWord b := rfl
@[simp] theorem readWord_three (b : Block) : readWord b 3 = fldWord b := rfl

/-- A read changes no element and leaves `rst` and the moves. -/
theorem stepRead_next {raddr : BitVec 2} {s t : State} (h : stepRead raddr s = .next t) :
    t.block = s.block ∧ t.rst = s.rst ∧ t.moves = s.moves ∧ t.answer = .rdata (readWord s.block raddr) := by
  cases h
  exact ⟨rfl, rfl, rfl, rfl⟩

/-- Asserting `rst` leaves the reset values, `rst` asserted and the moves. -/
theorem stepAssert_next {s t : State} (h : stepAssert s = .next t) :
    t.block = Block.reset ∧ t.rst = true ∧ t.moves = s.moves ∧ t.answer = .nothing := by
  cases h
  exact ⟨rfl, rfl, rfl, rfl⟩

/-- Releasing `rst` leaves the elements as they are, `rst` released and the moves. -/
theorem stepRelease_next {s t : State} (h : stepRelease s = .next t) :
    t.block = s.block ∧ t.rst = false ∧ t.moves = s.moves ∧ t.answer = .nothing := by
  cases h
  exact ⟨rfl, rfl, rfl, rfl⟩

/-- A word that is not taken leaves the elements, `rst` and the moves, and has no response. -/
theorem stepUntaken_next {s t : State} (h : stepUntaken s = .next t) :
    t.block = s.block ∧ t.rst = s.rst ∧ t.moves = s.moves ∧ t.answer = .nothing := by
  cases h
  exact ⟨rfl, rfl, rfl, rfl⟩

/-- An idle step changes nothing. -/
theorem stepIdle_next {s t : State} (h : stepIdle s = .next t) : t = s := by
  cases h
  rfl

end Sys2Proof.Machine
end

