-- ==== Sys2Proof/Laws/State.lean ====
section
/-!
SUPPORT. What each update of the state leaves in each field, one lemma per field per update.
-/

namespace Sys2Proof.Machine

@[simp] theorem Block.writeCrc_rem (b : Block) (r : Rem) : (b.writeCrc r).rem = r := rfl
@[simp] theorem Block.writeCrc_crcok (b : Block) (r : Rem) : (b.writeCrc r).crcok = crcVerdict r := rfl
@[simp] theorem Block.writeCrc_cv (b : Block) (r : Rem) : (b.writeCrc r).cv = true := rfl
@[simp] theorem Block.writeCrc_res (b : Block) (r : Rem) : (b.writeCrc r).res = b.res := rfl
@[simp] theorem Block.writeCrc_rv (b : Block) (r : Rem) : (b.writeCrc r).rv = b.rv := rfl
@[simp] theorem Block.writeCrc_rsel (b : Block) (r : Rem) : (b.writeCrc r).rsel = b.rsel := rfl
@[simp] theorem Block.writeCrc_eob (b : Block) (r : Rem) : (b.writeCrc r).eob = b.eob := rfl
@[simp] theorem Block.writeCrc_htr (b : Block) (r : Rem) : (b.writeCrc r).htr = b.htr := rfl
@[simp] theorem Block.writeCrc_otpd (b : Block) (r : Rem) : (b.writeCrc r).otpd = b.otpd := rfl
@[simp] theorem Block.writeCrc_otpen (b : Block) (r : Rem) : (b.writeCrc r).otpen = b.otpen := rfl
@[simp] theorem Block.writeCrc_fv (b : Block) (r : Rem) : (b.writeCrc r).fv = b.fv := rfl
@[simp] theorem Block.writeCrc_ill (b : Block) (r : Rem) : (b.writeCrc r).ill = b.ill := rfl
@[simp] theorem Block.writeCrc_ecause (b : Block) (r : Rem) : (b.writeCrc r).ecause = b.ecause := rfl

@[simp] theorem Block.writeRes_rem (b : Block) (r : Byte) : (b.writeRes r).rem = b.rem := rfl
@[simp] theorem Block.writeRes_crcok (b : Block) (r : Byte) : (b.writeRes r).crcok = b.crcok := rfl
@[simp] theorem Block.writeRes_cv (b : Block) (r : Byte) : (b.writeRes r).cv = b.cv := rfl
@[simp] theorem Block.writeRes_res (b : Block) (r : Byte) : (b.writeRes r).res = r := rfl
@[simp] theorem Block.writeRes_rv (b : Block) (r : Byte) : (b.writeRes r).rv = true := rfl
@[simp] theorem Block.writeRes_rsel (b : Block) (r : Byte) : (b.writeRes r).rsel = b.rsel := rfl
@[simp] theorem Block.writeRes_eob (b : Block) (r : Byte) : (b.writeRes r).eob = b.eob := rfl
@[simp] theorem Block.writeRes_htr (b : Block) (r : Byte) : (b.writeRes r).htr = b.htr := rfl
@[simp] theorem Block.writeRes_otpd (b : Block) (r : Byte) : (b.writeRes r).otpd = b.otpd := rfl
@[simp] theorem Block.writeRes_otpen (b : Block) (r : Byte) : (b.writeRes r).otpen = b.otpen := rfl
@[simp] theorem Block.writeRes_fv (b : Block) (r : Byte) : (b.writeRes r).fv = b.fv := rfl
@[simp] theorem Block.writeRes_ill (b : Block) (r : Byte) : (b.writeRes r).ill = b.ill := rfl
@[simp] theorem Block.writeRes_ecause (b : Block) (r : Byte) : (b.writeRes r).ecause = b.ecause := rfl

@[simp] theorem Block.writeFld_rem (b : Block) (c : Byte) : (b.writeFld c).rem = b.rem := rfl
@[simp] theorem Block.writeFld_crcok (b : Block) (c : Byte) : (b.writeFld c).crcok = b.crcok := rfl
@[simp] theorem Block.writeFld_cv (b : Block) (c : Byte) : (b.writeFld c).cv = b.cv := rfl
@[simp] theorem Block.writeFld_res (b : Block) (c : Byte) : (b.writeFld c).res = b.res := rfl
@[simp] theorem Block.writeFld_rv (b : Block) (c : Byte) : (b.writeFld c).rv = b.rv := rfl
@[simp] theorem Block.writeFld_rsel (b : Block) (c : Byte) : (b.writeFld c).rsel = urRsel c := rfl
@[simp] theorem Block.writeFld_eob (b : Block) (c : Byte) : (b.writeFld c).eob = urEob c := rfl
@[simp] theorem Block.writeFld_htr (b : Block) (c : Byte) : (b.writeFld c).htr = urHtr c := rfl
@[simp] theorem Block.writeFld_otpd (b : Block) (c : Byte) : (b.writeFld c).otpd = urOtpd c := rfl
@[simp] theorem Block.writeFld_otpen (b : Block) (c : Byte) : (b.writeFld c).otpen = urOtpen c := rfl
@[simp] theorem Block.writeFld_fv (b : Block) (c : Byte) : (b.writeFld c).fv = true := rfl
@[simp] theorem Block.writeFld_ill (b : Block) (c : Byte) : (b.writeFld c).ill = b.ill := rfl
@[simp] theorem Block.writeFld_ecause (b : Block) (c : Byte) : (b.writeFld c).ecause = b.ecause := rfl

@[simp] theorem Block.record_rem (b : Block) (c : Cause) : (b.record c).rem = b.rem := rfl
@[simp] theorem Block.record_crcok (b : Block) (c : Cause) : (b.record c).crcok = b.crcok := rfl
@[simp] theorem Block.record_cv (b : Block) (c : Cause) : (b.record c).cv = b.cv := rfl
@[simp] theorem Block.record_res (b : Block) (c : Cause) : (b.record c).res = b.res := rfl
@[simp] theorem Block.record_rv (b : Block) (c : Cause) : (b.record c).rv = b.rv := rfl
@[simp] theorem Block.record_rsel (b : Block) (c : Cause) : (b.record c).rsel = b.rsel := rfl
@[simp] theorem Block.record_eob (b : Block) (c : Cause) : (b.record c).eob = b.eob := rfl
@[simp] theorem Block.record_htr (b : Block) (c : Cause) : (b.record c).htr = b.htr := rfl
@[simp] theorem Block.record_otpd (b : Block) (c : Cause) : (b.record c).otpd = b.otpd := rfl
@[simp] theorem Block.record_otpen (b : Block) (c : Cause) : (b.record c).otpen = b.otpen := rfl
@[simp] theorem Block.record_fv (b : Block) (c : Cause) : (b.record c).fv = b.fv := rfl
@[simp] theorem Block.record_ill (b : Block) (c : Cause) : (b.record c).ill = true := rfl
@[simp] theorem Block.record_ecause (b : Block) (c : Cause) : (b.record c).ecause = causeCode c := rfl

@[simp] theorem State.withMoves_block (s : State) (ms : List HostMove) : (s.withMoves ms).block = s.block := rfl
@[simp] theorem State.withMoves_rst (s : State) (ms : List HostMove) : (s.withMoves ms).rst = s.rst := rfl
@[simp] theorem State.withMoves_answer (s : State) (ms : List HostMove) : (s.withMoves ms).answer = s.answer := rfl
@[simp] theorem State.withMoves_moves (s : State) (ms : List HostMove) : (s.withMoves ms).moves = ms := rfl

@[simp] theorem State.held_block (s : State) : s.held.block = if s.rst then Block.reset else s.block := by
  unfold State.held
  split <;> rfl

@[simp] theorem State.held_rst (s : State) : s.held.rst = s.rst := by
  unfold State.held
  split <;> rfl

@[simp] theorem State.held_moves (s : State) : s.held.moves = s.moves := by
  unfold State.held
  split <;> rfl

@[simp] theorem State.held_answer (s : State) : s.held.answer = s.answer := by
  unfold State.held
  split <;> rfl

/-- A word presented by the host is the very next move. -/
theorem pending_presentTableWord (s : State) (nbits w : Nat) :
    pending (presentTableWord s nbits w) = .word (tableWord nbits w) s.moves := rfl

end Sys2Proof.Machine
end

