-- ==== Sys2Proof/Laws/Ops.lean ====
section
/-!
SUPPORT. One lemma per shared operation that says once everything it can do: completing a word, rejecting a word, the
held reset, the pending move, and everything a step can be.
-/

namespace Sys2Proof.Machine

/-- If a word completes with the block `b`, the block is `b`, the response is 0b00 and the ports are as before. -/
theorem complete_next {b : Block} {s t : State} (h : complete b s = .next t) :
    t.block = b ∧ t.answer = .resp 0b00 ∧ t.rst = s.rst ∧ t.moves = s.moves := by
  cases h
  exact ⟨rfl, rfl, rfl, rfl⟩

/-- If a word is rejected, `ILL` and `ECAUSE` are recorded, the cause is the response and the ports are as before. -/
theorem raise_next {c : Cause} {s t : State} (h : raise c s = .next t) :
    t.block = s.block.record c ∧ t.answer = .resp (causeCode c) ∧ t.rst = s.rst ∧ t.moves = s.moves := by
  cases h
  exact ⟨rfl, rfl, rfl, rfl⟩

/-- Every operation completes, with one of the three group writes. -/
theorem exec_eq_complete (i : Instr) (s : State) :
    (∃ r, exec i s = complete (s.block.writeCrc r) s) ∨ (∃ r, exec i s = complete (s.block.writeRes r) s) ∨
      (∃ c, exec i s = complete (s.block.writeFld c) s) := by
  cases i with
  | crcv raw chk => exact .inl ⟨_, rfl⟩
  | dec cur => exact .inr (.inr ⟨_, rfl⟩)
  | setres cur arg => exact .inr (.inl ⟨_, rfl⟩)
  | tglhtr cur => exact .inr (.inl ⟨_, rfl⟩)
  | tglotp cur => exact .inr (.inl ⟨_, rfl⟩)

/-- With `rst` released the elements are as they stand. -/
theorem held_of_released {s : State} (h : s.rst = false) : s.held = s := by
  simp [State.held, h]

/-- With `rst` asserted every element is at its reset value. -/
theorem held_of_asserted {s : State} (h : s.rst = true) : s.held = { s with block := Block.reset } := by
  simp [State.held, h]

theorem pending_nil {s : State} (hm : s.moves = []) : pending s = .idle := by
  simp [pending, hm]

theorem pending_assert {s : State} {rest : List HostMove} (hm : s.moves = .assertRst :: rest) :
    pending s = .assert rest := by
  simp [pending, hm]

theorem pending_release {s : State} {rest : List HostMove} (hm : s.moves = .releaseRst :: rest) :
    pending s = .release rest := by
  simp [pending, hm]

theorem pending_read {s : State} {raddr : BitVec 2} {rest : List HostMove} (hm : s.moves = .read raddr :: rest) :
    pending s = .read raddr rest := by
  simp [pending, hm]

theorem pending_issue {s : State} {w : Word} {rest : List HostMove} (hr : s.rst = false)
    (hm : s.moves = .issue w :: rest) : pending s = .word w rest := by
  simp [pending, hr, hm]

theorem pending_untaken {s : State} {w : Word} {rest : List HostMove} (hr : s.rst = true)
    (hm : s.moves = .issue w :: rest) : pending s = .untaken rest := by
  simp [pending, hr, hm]

/-- Everything a step can be: idle, an assertion or a release of `rst`, a read, a word that is not taken, an executed
word or a rejected word, each with the condition that selects it. -/
theorem step_cases (s : State) :
    (s.moves = [] ∧ step s = stepIdle s.held) ∨
    (∃ rest, s.moves = .assertRst :: rest ∧ step s = stepAssert (s.held.withMoves rest)) ∨
    (∃ rest, s.moves = .releaseRst :: rest ∧ step s = stepRelease (s.held.withMoves rest)) ∨
    (∃ raddr rest, s.moves = .read raddr :: rest ∧ step s = stepRead raddr (s.held.withMoves rest)) ∨
    (∃ w rest, s.rst = true ∧ s.moves = .issue w :: rest ∧ step s = stepUntaken (s.held.withMoves rest)) ∨
    (∃ w rest i, s.rst = false ∧ s.moves = .issue w :: rest ∧ decode w = .accept i ∧
      step s = exec i (s.withMoves rest)) ∨
    (∃ w rest c, s.rst = false ∧ s.moves = .issue w :: rest ∧ decode w = .reject c ∧
      step s = raise c (s.withMoves rest)) := by
  rcases hm : s.moves with _ | ⟨w | raddr | _ | _, rest⟩
  · exact .inl ⟨rfl, by simp [step, pending_nil hm]⟩
  · rcases hr : s.rst with _ | _
    · rcases hd : decode w with i | c
      · exact .inr (.inr (.inr (.inr (.inr (.inl
          ⟨w, rest, i, rfl, rfl, hd, by simp [step, pending_issue hr hm, hd]⟩)))))
      · exact .inr (.inr (.inr (.inr (.inr (.inr
          ⟨w, rest, c, rfl, rfl, hd, by simp [step, pending_issue hr hm, hd]⟩)))))
    · exact .inr (.inr (.inr (.inr (.inl ⟨w, rest, rfl, rfl, by simp [step, pending_untaken hr hm]⟩))))
  · exact .inr (.inr (.inr (.inl ⟨raddr, rest, rfl, by simp [step, pending_read hm]⟩)))
  · exact .inr (.inl ⟨rest, rfl, by simp [step, pending_assert hm]⟩)
  · exact .inr (.inr (.inl ⟨rest, rfl, by simp [step, pending_release hm]⟩))

end Sys2Proof.Machine
end

