-- ==== Sys2Proof/Laws/PerInstr.lean ====
section
/-!
SUPPORT. Statements made for every operation, one lemma per constructor: the word of an operation lies in its row of the
opcode map (30_encoding.md R53).
-/

namespace Sys2Proof.Laws.OpcodeRow

/-- The operation's word, under the mask of its row, is the row's pattern. -/
def Statement (i : Instr) : Prop := encode i &&& (rowOf i).mask = (rowOf i).pattern

/-- Format C under the mask of bits 31:24 keeps `OPC` and `Z1`. -/
theorem formatC_masked (opc : BitVec 4) (raw : Raw) (chk : Byte) :
    formatC opc raw chk &&& 0xFF000000 = formatC opc 0 0 := by
  refine BitVec.eq_of_getLsbD_eq fun i hi => ?_
  simp only [formatC, BitVec.getLsbD_and, BitVec.getLsbD_append]
  interval_cases i <;> simp

/-- Format R2 under the mask of bits 31:16 keeps `OPC`, `Z1` and `Z2`. -/
theorem formatR2_masked (opc : BitVec 4) (cur arg : Byte) :
    formatR2 opc cur arg &&& 0xFFFF0000 = formatR2 opc 0 0 := by
  refine BitVec.eq_of_getLsbD_eq fun i hi => ?_
  simp only [formatR2, BitVec.getLsbD_and, BitVec.getLsbD_append]
  interval_cases i <;> simp

/-- Format R1 under the mask of bits 31:16 and 7:0 keeps all but `CUR`. -/
theorem formatR1_masked (opc : BitVec 4) (cur : Byte) :
    formatR1 opc cur &&& 0xFFFF00FF = formatR1 opc 0 := by
  refine BitVec.eq_of_getLsbD_eq fun i hi => ?_
  simp only [formatR1, BitVec.getLsbD_and, BitVec.getLsbD_append]
  interval_cases i <;> simp

theorem crcv (raw : Raw) (chk : Byte) : Statement (.crcv raw chk) :=
  (formatC_masked 0x1 raw chk).trans (by decide : formatC 0x1 0 0 = 0x10000000)

theorem dec (cur : Byte) : Statement (.dec cur) :=
  (formatR1_masked 0x2 cur).trans (by decide : formatR1 0x2 0 = 0x20000000)

theorem setres (cur arg : Byte) : Statement (.setres cur arg) :=
  (formatR2_masked 0x3 cur arg).trans (by decide : formatR2 0x3 0 0 = 0x30000000)

theorem tglhtr (cur : Byte) : Statement (.tglhtr cur) :=
  (formatR1_masked 0x4 cur).trans (by decide : formatR1 0x4 0 = 0x40000000)

theorem tglotp (cur : Byte) : Statement (.tglotp cur) :=
  (formatR1_masked 0x5 cur).trans (by decide : formatR1 0x5 0 = 0x50000000)

end Sys2Proof.Laws.OpcodeRow
end

