-- ==== Sys2Proof/Tests/Slice0.lean ====
section
/-!
SUPPORT. The model's own tests. Expected values come from spec/95_test_vectors.md (V1 to V12, P4) and 30_encoding.md
section 9; each comment names the source. The witnesses at the end meet the hypotheses of the statements.
-/

namespace Sys2Proof.Tests

open Sys2Proof.Machine

set_option maxRecDepth 8000

/-- A state with `rst` released and the given moves pending, in which every group holds something (V12's state). -/
def busy (ms : List HostMove) : State where
  block := { rem := 0x000031, crcok := false, cv := true, res := 0x83, rv := true, rsel := 0b00, eob := true, htr := true,
             otpd := true, otpen := false, fv := true, ill := true, ecause := 0b10 }
  rst := false
  moves := ms
  answer := .nothing

/-- The reset state with the given moves pending. -/
def fresh (ms : List HostMove) : State := { State.reset with moves := ms }

/-- The four read words after a step: STATUS, REMW, RESW, FLDW. -/
def readAll : Host.Outcome State Fault Refusal → Option (ReadWord × ReadWord × ReadWord × ReadWord)
  | .next t => some (readWord t.block 0, readWord t.block 1, readWord t.block 2, readWord t.block 3)
  | .fault _ => none
  | .refused _ => none

/-- The answer of a step. -/
def answerOf : Host.Outcome State Fault Refusal → Option Answer
  | .next t => some t.answer
  | .fault _ => none
  | .refused _ => none

/-! ### WellFormed: an ill-formed line for each check -/

theorem test_wf_crcv_raw_too_large : (Line.crcv 65536 0).wf = false := by decide
theorem test_wf_crcv_chk_too_large : (Line.crcv 0 256).wf = false := by decide
theorem test_wf_dec_cur_too_large : (Line.dec 256).wf = false := by decide
theorem test_wf_setres_cur_too_large : (Line.setres 256 0).wf = false := by decide
theorem test_wf_setres_arg_too_large : (Line.setres 0 256).wf = false := by decide
theorem test_wf_tglhtr_cur_too_large : (Line.tglhtr 256).wf = false := by decide
theorem test_wf_tglotp_cur_too_large : (Line.tglotp 256).wf = false := by decide
theorem test_wf_crcg_raw_too_large : (Line.crcg 65536).wf = false := by decide
theorem test_wf_word_too_large : (Line.word 4294967296).wf = false := by decide
theorem test_assemble_refuses_ill_formed : assemble (.crcv 65536 0) = none := by decide
theorem test_assemble_crcg : assemble (.crcg 0x1234) = some 0x10123400 := by decide -- P5

/-! ### Decode: one word per constructor, written out bit by bit (30_encoding.md section 9), and V11 -/

theorem test_decode_crcv :
    decode 0b00010000011010000011101001111100 = .accept (.crcv 0x683A 0x7C) := by decide
theorem test_decode_dec : decode 0b00100000000000000000001000000000 = .accept (.dec 0x02) := by decide
theorem test_decode_setres :
    decode 0b00110000000000000000001010000001 = .accept (.setres 0x02 0x81) := by decide
theorem test_decode_tglhtr : decode 0b01000000000000000000001000000000 = .accept (.tglhtr 0x02) := by decide
theorem test_decode_tglotp : decode 0b01010000000000000000001000000000 = .accept (.tglotp 0x02) := by decide
theorem test_decode_illegal :
    [0x00000000, 0xFFFFFFFF, 0x60000000, 0x0F000000].map decode = List.replicate 4 (.reject .illegalOpcode) := by decide
theorem test_decode_reserved :
    [0x11683A7C, 0x1F000000, 0x20010200, 0x20000201, 0x21000200, 0x30010281, 0x40000204, 0x500002FF].map decode =
      List.replicate 8 (.reject .reservedField) := by decide
theorem test_decode_boundary :
    [0x10FFFFFF, 0x3000FFFF, 0x2000FF00, 0x4000FF00, 0x5000FF00].map decode =
      [.accept (.crcv 0xFFFF 0xFF), .accept (.setres 0xFF 0xFF), .accept (.dec 0xFF), .accept (.tglhtr 0xFF),
       .accept (.tglotp 0xFF)] := by decide
theorem test_encode :
    [.crcv 0x683A 0x7C, .dec 0x02, .setres 0x02 0x81, .tglhtr 0x02, .tglotp 0x02].map encode =
      [0x10683A7C, 0x20000200, 0x30000281, 0x40000200, 0x50000200] := by decide
theorem test_rows_disjoint : opcodeTable.Pairwise (fun a b => a.pattern &&& b.mask ≠ b.pattern) := by decide

/-! ### CRCV (V1, V3, V4, V6) -/

theorem test_crcv_verifying :
    readAll (exec (.crcv 0xABCD 0xEE) (fresh [])) = some (0x000003, 0x000000, 0x000000, 0x000000) := by decide
theorem test_crcv_swapped_bytes_fail :
    readAll (exec (.crcv 0x3A68 0x7C) (fresh [])) = some (0x000002, 0x000022, 0x000000, 0x000000) := by decide
/-- V6, the remainders after iterations 1, 6 and 12 of 0x683A with 0x7C. -/
theorem test_crc_trace :
    [2, 7, 13].map (fun k => (crcLoop (0x683A7C : Rem) k).1) = [0x247A7C, 0x00387C, 0x0004C4] := by decide
/-- V2, the CRC of the raw values with a single bit set. -/
theorem test_crc8_single_bits :
    (List.range 16).map (fun i => crc8 (BitVec.twoPow 16 i)) =
      [0x31, 0x62, 0xC4, 0xB9, 0x43, 0x86, 0x3D, 0x7A, 0xF4, 0xD9, 0x83, 0x37, 0x6E, 0xDC, 0x89, 0x23] := by decide
theorem test_conventional_crc8 : conventionalCrc8 0xFFFF = 0x2D := by decide -- R72 (b), R73

/-! ### DEC (V10), SETRES (V8), TGLHTR and TGLOTP (V9) -/

theorem test_dec_default :
    readAll (exec (.dec Config.urDefault) (fresh [])) = some (0x000008, 0x000000, 0x000000, 0x000010) := by decide
theorem test_dec_ignores_bits_5_to_3 :
    readAll (exec (.dec 0x38) (fresh [])) = some (0x000008, 0x000000, 0x000000, 0x000020) := by decide
theorem test_setres_keeps_other_bits :
    readAll (exec (.setres 0x46 0x81) (fresh [])) = some (0x000004, 0x000000, 0x0000C7, 0x000000) := by decide
theorem test_setres_ignores_arg_bits :
    readAll (exec (.setres 0x7E 0xFF) (fresh [])) = some (0x000004, 0x000000, 0x0000FF, 0x000000) := by decide
theorem test_tglhtr :
    readAll (exec (.tglhtr 0x3A) (fresh [])) = some (0x000004, 0x000000, 0x00003E, 0x000000) := by decide
theorem test_tglotp :
    readAll (exec (.tglotp 0x3A) (fresh [])) = some (0x000004, 0x000000, 0x000038, 0x000000) := by decide

/-! ### Steps: rejection (P4), read, reset (V12), idle -/

theorem test_reject_keeps_results :
    readAll (step (busy [.issue 0x00000000])) = some (0x00003E, 0x000031, 0x000083, 0x00001C) ∧
      answerOf (step (busy [.issue 0x00000000])) = some (.resp 0b01) := by decide
theorem test_accept_keeps_ill : answerOf (step (busy [.issue 0x104E856B])) = some (.resp 0b00) ∧
    readAll (step (busy [.issue 0x104E856B])) = some (0x00005F, 0x000000, 0x000083, 0x00001C) := by decide
theorem test_read : answerOf (step (busy [.read 0])) = some (.rdata 0x00005E) ∧
    answerOf (step (busy [.read 3])) = some (.rdata 0x00001C) := by decide
theorem test_reset : readAll (step (busy [.assertRst])) = some (0, 0, 0, 0) := by decide
/-- R39, R105: while `rst` is asserted a read gives back a reset value, and a word is not taken. -/
theorem test_read_under_reset :
    answerOf (step { busy [.read 0] with rst := true }) = some (.rdata 0x000000) ∧
      readAll (step { busy [.issue 0x10683A7C] with rst := true }) = some (0, 0, 0, 0) ∧
      answerOf (step { busy [.issue 0x10683A7C] with rst := true }) = some .nothing := by decide
theorem test_fetch_word : readAll (step (State.reset.withFetchWord 32 0x50000200)) =
    some (0x000004, 0x000000, 0x000000, 0x000000) := by decide
theorem test_decode_table_word : decodeTableWord 32 0x10683A7C = some (.crcv 0x683A 0x7C) ∧
    decodeTableWord 32 0x20010200 = none := by decide
theorem test_frame_word : frameWord [0x68, 0x3A, 0x7C] = some 0x10683A7C ∧ frameWord [0x68, 0x3A] = none := by decide
/-- Two words taken since the reset: those before it, and one presented while `rst` is asserted, do not count. -/
theorem test_block_of_words :
    takenSinceReset [.issue 0x10683A7C, .assertRst, .read 0, .issue 0x30000281, .releaseRst, .issue 0x20000200,
        .issue 0x00000000] = (false, [0x20000200, 0x00000000]) ∧
    readWord (blockOfWords [0x20000200, 0x00000000]) 0 = 0x000038 := by decide

/-! ### Witnesses: each meets together the hypotheses of the statement it names -/

/-- CrcvComputesLongDivision: words of `OPC` 1 with `Z1` zero and not zero, and the remainder it speaks of. -/
theorem witness_crcv :
    (0x10683A7C : Word).extractLsb' 28 4 = 0x1 ∧ (0x10683A7C : Word).extractLsb' 24 4 = 0 ∧
    (0x1F000000 : Word).extractLsb' 28 4 = 0x1 ∧ (0x1F000000 : Word).extractLsb' 24 4 ≠ 0 ∧
    (0x0000D2 : Rem) = ((List.range 16).foldl
      (fun (v : Rem × Rem) i => (if v.1.getLsbD (23 - i) = true then v.1 ^^^ v.2 else v.1, v.2 >>> 1))
      (((0xFFFF : Raw).setWidth 24 <<< 8) ||| (0xFF : Byte).setWidth 24, 0x988000)).1 := by decide

/-- DecUnpacksRegisterByte: words of `OPC` 2, accepted and rejected in either reserved part, and two bytes that differ
only in bits 5 to 3. -/
theorem witness_dec :
    ([0x20000200, 0x20010200, 0x21000200, 0x20000201] : List Word).all (fun w => w.extractLsb' 28 4 == 0x2) = true ∧
    (0x00 : Byte) &&& 0xC7 = 0x38 &&& 0xC7 := by decide

/-- SetresMergesResolutionBits: words of `OPC` 3 at both clauses, and operands for the corner cases (b), (c), (d). -/
theorem witness_setres :
    ([0x30000281, 0x30010281] : List Word).all (fun w => w.extractLsb' 28 4 == 0x3) = true ∧
    (0xFF : Byte) &&& 0x81 = 0x81 &&& 0x81 ∧ (0x83 : Byte) &&& 0x7E = 0x02 &&& 0x7E ∧
    (0x81 : Byte) &&& 0x81 = 0x83 &&& 0x81 := by decide

/-- TglhtrInvertsHeaterBit and TglotpInvertsReloadDisabledBit: words of `OPC` 4 and 5 at every clause. -/
theorem witness_toggles :
    ([0x40000200, 0x40010200, 0x40000204] : List Word).all (fun w => w.extractLsb' 28 4 == 0x4) = true ∧
    ([0x50000200, 0x5F000200, 0x500002FF] : List Word).all (fun w => w.extractLsb' 28 4 == 0x5) = true ∧ (7 : Nat) < 8 := by decide

/-- OperationsReadNoState: an operation that answers a next state from two different states. -/
theorem witness_next_from_two_states :
    ∃ t t' : State, exec (.dec 0x02) (fresh []) = .next t ∧ exec (.dec 0x02) (busy []) = .next t' ∧ fresh [] ≠ busy [] :=
  ⟨_, _, rfl, rfl, by decide⟩

/-- RemainderIsCrcXorChecksum and CrcvCornerCases: a verifying pair, a change of its checksum, and bit numbers. -/
theorem witness_verifying_pair :
    crcRemainder 0x683A 0x7C = 0 ∧ crcDivide (0x683A7C : Rem) = 0 ∧ (0x01 : Byte) ≠ 0 ∧ (15 : Nat) < 16 ∧ (23 : Nat) < 24 := by
  decide

/-- LongDivisionClearsHighBits: at the first and the last iteration, the bit under test set and clear. -/
theorem witness_bit_under_test :
    (crcLoop (0x800000 : Rem) 0).1.getLsbD 23 = true ∧ (crcLoop (0x000000 : Rem) 0).1.getLsbD 23 = false ∧
    (crcLoop (0x000100 : Rem) 15).1.getLsbD 8 = true ∧ (crcLoop (0x000000 : Rem) 15).1.getLsbD 8 = false := by decide

/-- LongDivisionClearsHighBits, CrcvCornerCases: the last iteration, the bit just below the divisor's lowest at the first
iteration, and the end of the loop. -/
theorem witness_iterations : (15 : Nat) < 16 ∧ (14 : Nat) < 15 - 0 ∧ (16 : Nat) ≤ 16 := by decide

/-- DivisionIndependentOfWidth: the widths where the two clauses meet. -/
theorem witness_widths : (24 : Nat) ≤ 24 ∧ (23 : Nat) < 24 := by decide

/-- CodecLaws (f): a byte an encoder gives. -/
theorem witness_encoder_result : (0x06 : Byte) ∈ [setResolution 0x02 0x81, toggleHeater 0x02, toggleOtp 0x02] := by decide

/-- EncodeReadsBackDecode, OpcodeMapSelectsByMatchAndMask: an accepted word, and rejected words at both ends of the
reserved codes. -/
theorem witness_accepted_word :
    decode 0x3000FFFF = .accept (.setres 0xFF 0xFF) ∧ (0x0FFFFFFF : Word).extractLsb' 28 4 = 0x0 ∧
    0x6 ≤ (0x60000000 : Word).extractLsb' 28 4 ∧ 0x6 ≤ (0xF0000000 : Word).extractLsb' 28 4 := by decide

/-- AssemblerFollowsSyntaxTable: operands at the ends of their ranges, and just outside. -/
theorem witness_operand_ranges :
    (65535 : Nat) < 65536 ∧ (255 : Nat) < 256 ∧ (4294967295 : Nat) < 2 ^ 32 ∧ (65536 : Nat) ≤ 65536 ∧ (256 : Nat) ≤ 256 ∧
    (2 ^ 32 : Nat) ≤ 4294967296 := by decide

/-- FrameIsBigEndian: a frame of another length. -/
theorem witness_short_frame : ([0x68, 0x3A] : List Byte).length ≠ 3 := by decide

/-- RejectionIsPrecise, RejectedWordsAndCauses, StepRunsDecodedOperation, GroupsDoNotDisturbEachOther: pending words that
are accepted, and rejected for either cause; for the last, of every operation code it sets apart. -/
theorem witness_pending_words :
    (busy [.issue 0x20000200]).rst = false ∧ (busy [.issue 0x20000200]).moves = .issue 0x20000200 :: [] ∧
    decode 0x20000200 = .accept (.dec 0x02) ∧ decode 0x60000000 = .reject .illegalOpcode ∧
    decode 0x20010200 = .reject .reservedField ∧ (decode 0x60000000).instr? = none ∧
    (0x20000200 : Word).extractLsb' 28 4 ≠ 0x1 ∧ (0x10683A7C : Word).extractLsb' 28 4 ≠ 0x2 ∧
    (0x20000200 : Word).extractLsb' 28 4 ≠ 0x3 ∧ (0x20000200 : Word).extractLsb' 28 4 ≠ 0x4 ∧
    (0x20000200 : Word).extractLsb' 28 4 ≠ 0x5 := by decide

/-- LegalWordAfterRejectionRunsNormally: a rejected word before a legal one and before another rejected one, and a step
that is no reset from a state with `ILL` set. -/
theorem witness_word_after_rejection :
    (busy [.issue 0x00000000, .issue 0x104E856B]).moves = .issue 0x00000000 :: .issue 0x104E856B :: [] ∧
    decode 0x00000000 = .reject .illegalOpcode ∧ decode 0x104E856B = .accept (.crcv 0x4E85 0x6B) ∧
    (busy [.issue 0x00000000, .issue 0x20010200]).moves = .issue 0x00000000 :: .issue 0x20010200 :: [] ∧
    decode 0x20010200 = .reject .reservedField ∧
    (busy [.issue 0x00000000]).resetting = false ∧ (busy [.issue 0x00000000]).block.ill = true := by decide

/-- ReadWordsShowEachField, ReadAfterWordSeesItsWrites: two reads pending, with `rst` released and asserted, and a word
with a read after it. -/
theorem witness_pending_reads :
    (busy [.read 3, .read 3]).moves = .read 3 :: .read 3 :: [] ∧ (busy [.read 3, .read 3]).rst = false ∧
    ({ fresh [.read 0, .read 0] with rst := true } : State).moves = .read 0 :: .read 0 :: [] ∧
    (busy [.issue 0x10683A7C, .read 0]).rst = false ∧
    (busy [.issue 0x10683A7C, .read 0]).moves = .issue 0x10683A7C :: .read 0 :: [] := by decide

/-- ReadWordsDetermineBlock: two blocks with the same read words. -/
theorem witness_same_read_words :
    ∀ raddr : BitVec 2, readWord Block.reset raddr = readWord State.reset.block raddr := by decide

/-- ResetRestoresEveryElement, NothingHappensWithoutMove: an assertion pending; a release, a word, a read and no move
pending while `rst` is asserted; the whole reset pending; no move pending with `rst` released. -/
theorem witness_reset_and_idle :
    (busy [.assertRst]).moves = .assertRst :: [] ∧
    ({ busy [.releaseRst] with rst := true } : State).rst = true ∧
    ({ busy [.releaseRst] with rst := true } : State).moves = .releaseRst :: [] ∧
    ({ busy [.issue 0x20000200] with rst := true } : State).moves = .issue 0x20000200 :: [] ∧
    ({ busy [.read 0] with rst := true } : State).moves.head? ≠ some .releaseRst ∧
    (busy hostReset).moves = hostReset ++ [] ∧
    ({ busy [] with rst := true } : State).moves = [] ∧ (busy []).rst = false ∧ (busy []).moves = [] := by decide

/-- ResetRestoresEveryElement, ReachableStatesMeetInvariants: steps that are no reset, with every mark set; the release of
a reset that was not asserted is one of them. -/
theorem witness_marks_set :
    (busy [.read 0]).resetting = false ∧ (busy [.releaseRst]).resetting = false ∧
    (busy [.read 0]).block.cv = true ∧ (busy [.read 0]).block.rv = true ∧ (busy [.read 0]).block.fv = true ∧
    (busy [.read 0]).block.ill = true ∧ (busy [.read 0]).block.ecause ≠ 0b00 := by decide

/-- LegalWordAfterRejectionRunsNormally, ResetRestoresEveryElement, ReachableStatesMeetInvariants: a step that is no reset
and answers a next state. -/
theorem witness_step_no_reset :
    ∃ t : State, step (busy [.issue 0x00000000]) = .next t ∧ (busy [.issue 0x00000000]).resetting = false :=
  ⟨_, rfl, rfl⟩

/-- EveryStepKeepsInvariant, ReachableStatesMeetInvariants: a state with every group in use meets the invariant and has a
next state; a run reaches a state from reset. -/
theorem witness_invariant :
    (busy [.issue 0x10683A7C]).Inv ∧ ∃ t : State, step (busy [.issue 0x10683A7C]) = .next t :=
  ⟨by decide, _, rfl⟩

theorem witness_run :
    ∃ t : State, Host.Core.run Sys2Proof.core 1 (fresh [.issue 0x10683A7C]) = .next t ∧ t.block.cv = true :=
  ⟨_, rfl, rfl⟩

end Sys2Proof.Tests
end

section
/-!
PROOF. The block after each operation and after each word, the division's high bits, and what each of the host's moves
makes of a step: the equations the proofs below cite.
-/

namespace Sys2Proof.Machine

/-! ### The block after an operation and after a word -/

/-- The elements after an operation (40_crc.md R66, 41_codec.md R76 to R79). -/
def Block.perform (b : Block) : Instr → Block
  | .crcv raw chk => b.writeCrc (crcRemainder raw chk)
  | .dec cur => b.writeFld cur
  | .setres cur arg => b.writeRes (setResolution cur arg)
  | .tglhtr cur => b.writeRes (toggleHeater cur)
  | .tglotp cur => b.writeRes (toggleOtp cur)

/-- The elements after a word that is taken: an operation or a rejection (30_encoding.md R54, 60_exceptions.md R91). -/
def Block.take (b : Block) (w : Word) : Block :=
  match decode w with
  | .accept i => b.perform i
  | .reject c => b.record c

theorem Block.take_of_accept {w : Word} {i : Instr} (hd : decode w = .accept i) (b : Block) :
    b.take w = b.perform i := by
  simp [Block.take, hd]

theorem Block.take_of_reject {w : Word} {c : Cause} (hd : decode w = .reject c) (b : Block) :
    b.take w = b.record c := by
  simp [Block.take, hd]

/-- Every operation completes with the block `Block.perform` gives. -/
theorem exec_eq_complete_perform (i : Instr) (s : State) : exec i s = complete (s.block.perform i) s := by
  cases i <;> rfl

theorem exec_next {i : Instr} {s t : State} (h : exec i s = .next t) :
    t.block = s.block.perform i ∧ t.answer = .resp 0b00 ∧ t.rst = s.rst ∧ t.moves = s.moves :=
  complete_next ((exec_eq_complete_perform i s).symm.trans h)

/-- A rejection's code is 0b01 or 0b10 (60_exceptions.md R90). -/
theorem causeCode_ne (c : Cause) : causeCode c ≠ 0b00 ∧ causeCode c ≠ 0b11 := by
  cases c <;> decide

/-! ### The long division clears the high bits -/

/-- Bit `j` of the divisor before iteration `k`, seen from its top bit down. -/
theorem divisor_shift_getLsbD {k j : Nat} (hj : 23 - k ≤ j) (hk : k < 24) :
    ((0x988000 : Rem) >>> k).getLsbD j = decide (j = 23 - k) := by
  rw [BitVec.getLsbD_ushiftRight]
  rcases Nat.eq_or_lt_of_le hj with rfl | hlt
  · rw [Nat.add_sub_cancel' (by omega)]
    simp
  · rw [BitVec.getLsbD_of_ge _ _ (by omega)]
    simp [Nat.ne_of_gt hlt]

/-- Before iteration `k` the `k` highest bits of the remainder are zero (40_crc.md R69): the divisor's top bit clears
the bit under test, and above it both are clear. -/
theorem crcLoop_high_bits_zero (rem0 : Rem) (k : Nat) (hk : k ≤ 16) :
    ∀ j, 24 - k ≤ j → (crcLoop rem0 k).1.getLsbD j = false := by
  induction k with
  | zero => exact fun j hj => BitVec.getLsbD_of_ge _ _ hj
  | succ k ih =>
    intro j hj
    have hdiv := divisor_shift_getLsbD (k := k) (j := j) (by omega) (by omega)
    rw [crcLoop_remainder]
    by_cases hj' : j = 23 - k
    · subst hj'
      split <;> simp_all
    · have hkept := ih (by omega) j (by omega)
      split <;> simp_all

/-- (I1) for what CRCV writes: `REM[23:8] = 0`. -/
theorem crcRemainder_high_zero (raw : Raw) (chk : Byte) : (crcRemainder raw chk).extractLsb' 8 16 = 0 := by
  refine BitVec.eq_of_getLsbD_eq fun i hi => ?_
  have hzero := crcLoop_high_bits_zero (initialRemainder 24 raw chk) 16 (Nat.le_refl _) (8 + i) (by omega)
  simpa [BitVec.getLsbD_extractLsb', crcRemainder, crcDivide_eq] using fun _ => hzero

/-! ### One step for each of the host's moves -/

variable {s : State} {rest : List HostMove}

theorem step_of_assert (hm : s.moves = .assertRst :: rest) : step s = stepAssert (s.held.withMoves rest) := by
  simp [step, pending_assert hm]

theorem step_of_release (hm : s.moves = .releaseRst :: rest) : step s = stepRelease (s.held.withMoves rest) := by
  simp [step, pending_release hm]

theorem step_of_read {raddr : BitVec 2} (hm : s.moves = .read raddr :: rest) :
    step s = stepRead raddr (s.held.withMoves rest) := by
  simp [step, pending_read hm]

theorem step_of_untaken {w : Word} (hr : s.rst = true) (hm : s.moves = .issue w :: rest) :
    step s = stepUntaken (s.held.withMoves rest) := by
  simp [step, pending_untaken hr hm]

/-- A word that is taken: the step ends with the block `Block.take` gives, `rst` released and the rest still to come. -/
theorem step_of_issue {w : Word} (hr : s.rst = false) (hm : s.moves = .issue w :: rest) :
    ∃ t : State, step s = .next t ∧ t.block = s.block.take w ∧ t.rst = false ∧ t.moves = rest := by
  rcases hd : decode w with i | c
  · have hstep : step s = complete (s.block.perform i) (s.withMoves rest) := by
      simp [step, pending_issue hr hm, hd, exec_eq_complete_perform]
    exact ⟨_, hstep, (Block.take_of_accept hd _).symm, hr, rfl⟩
  · have hstep : step s = raise c (s.withMoves rest) := by
      simp [step, pending_issue hr hm, hd]
    exact ⟨_, hstep, (Block.take_of_reject hd _).symm, hr, rfl⟩

/-- Where the held reset already stands in the elements, holding it changes nothing. -/
theorem State.ResetHeld.held_eq (h : s.ResetHeld) : s.held = s := by
  rcases hr : s.rst with _ | _
  · exact held_of_released hr
  · rw [held_of_asserted hr, ← h hr]

/-- A step that is no reset leaves the elements, or takes a word. -/
theorem step_block_of_not_resetting {t : State} (hs : s.resetting = false) (h : step s = .next t) :
    t.block = s.block ∨ ∃ w, t.block = s.block.take w := by
  obtain ⟨hr, hhead⟩ : s.rst = false ∧ s.moves.head? ≠ some .assertRst := by simpa [State.resetting] using hs
  have hheld := held_of_released hr
  rcases step_cases s with ⟨_, hstep⟩ | ⟨rest, hm, _⟩ | ⟨rest, _, hstep⟩ | ⟨raddr, rest, _, hstep⟩ |
    ⟨w, rest, hr', _⟩ | ⟨w, rest, i, _, _, hd, hstep⟩ | ⟨w, rest, c, _, _, hd, hstep⟩
  case inr.inl => simp [hm] at hhead
  case inr.inr.inr.inr.inl => simp [hr] at hr'
  all_goals rw [hstep] at h
  · rw [stepIdle_next h, hheld]
    exact .inl rfl
  · rw [(stepRelease_next h).1, hheld]
    exact .inl rfl
  · rw [(stepRead_next h).1, hheld]
    exact .inl rfl
  · exact .inr ⟨w, by rw [(exec_next h).1, Block.take_of_accept hd]; rfl⟩
  · exact .inr ⟨w, by rw [(raise_next h).1, Block.take_of_reject hd]; rfl⟩

end Sys2Proof.Machine
end

section
/-!
PROOF. The invariants of 10_state.md R18: at reset, under every write of a group, in every step and along every run.
-/

namespace Sys2Proof.Machine

/-! ### I1 to I5 under each write -/

theorem Block.inv_reset : Block.reset.Inv := by
  decide

/-- A remainder with its high bits zero, and the verdict on it, meet I1 to I3; the other groups are untouched. -/
theorem Block.Inv.writeCrc {b : Block} (h : b.Inv) {r : Rem} (hr : r.extractLsb' 8 16 = 0) :
    (b.writeCrc r).Inv := by
  obtain ⟨-, -, -, hotp, hcause⟩ := h
  exact ⟨hr, by simp [Block.VerdictMarked, crcVerdict], by simp [Block.VerdictExact, crcVerdict], hotp, hcause⟩

/-- `RES` and `RV` stand in no invariant. -/
theorem Block.Inv.writeRes {b : Block} (h : b.Inv) (r : Byte) : (b.writeRes r).Inv := h

theorem Block.Inv.writeFld {b : Block} (h : b.Inv) (c : Byte) : (b.writeFld c).Inv := by
  obtain ⟨hhigh, hmarked, hexact, -, hcause⟩ := h
  exact ⟨hhigh, hmarked, hexact, fun _ => rfl, hcause⟩

theorem Block.Inv.record {b : Block} (h : b.Inv) (c : Cause) : (b.record c).Inv := by
  obtain ⟨hhigh, hmarked, hexact, hotp, -⟩ := h
  obtain ⟨hne, hne'⟩ := causeCode_ne c
  exact ⟨hhigh, hmarked, hexact, hotp, iff_of_true rfl hne, hne'⟩

theorem Block.Inv.perform {b : Block} (h : b.Inv) (i : Instr) : (b.perform i).Inv := by
  cases i with
  | crcv raw chk => exact h.writeCrc (crcRemainder_high_zero raw chk)
  | dec cur => exact h.writeFld cur
  | setres cur arg => exact h.writeRes _
  | tglhtr cur => exact h.writeRes _
  | tglotp cur => exact h.writeRes _

/-! ### The machine's invariant in every step -/

theorem State.inv_reset : State.reset.Inv :=
  ⟨Block.inv_reset, by decide, fun _ => rfl⟩

/-- With `rst` released the held reset asks nothing. -/
theorem State.inv_of_released {t : State} (hb : t.block.Inv) (ha : t.AnswerLegal) (hr : t.rst = false) : t.Inv :=
  ⟨hb, ha, fun hr' => absurd (hr.symm.trans hr') Bool.false_ne_true⟩

/-- A step that leaves the elements and `rst` keeps the invariant if its answer is legal. -/
theorem State.Inv.of_same_elements {s t : State} (h : s.Inv) (hb : t.block = s.block) (hr : t.rst = s.rst)
    (ha : t.AnswerLegal) : t.Inv := by
  obtain ⟨hinv, -, hheld⟩ := h
  exact ⟨hb ▸ hinv, ha, fun hr' => hb.trans (hheld (hr.symm.trans hr'))⟩

/-- The held reset already stands in a state that meets the invariant, so each step starts from the state itself: it
leaves the elements, resets them, performs an operation, or records a rejection. -/
theorem State.Inv.of_step {s t : State} (h : s.Inv) (hst : step s = .next t) : t.Inv := by
  have ⟨hinv, _, hreset⟩ := h
  have hheld : s.held = s := State.ResetHeld.held_eq hreset
  rcases step_cases s with ⟨_, hstep⟩ | ⟨rest, _, hstep⟩ | ⟨rest, _, hstep⟩ | ⟨raddr, rest, _, hstep⟩ |
    ⟨w, rest, _, _, hstep⟩ | ⟨w, rest, i, hr, _, _, hstep⟩ | ⟨w, rest, c, hr, _, _, hstep⟩ <;>
    rw [hstep] at hst
  · rw [stepIdle_next hst, hheld]
    exact h
  · obtain ⟨hb, -, -, ha⟩ := stepAssert_next hst
    exact ⟨hb ▸ Block.inv_reset, by simp [State.AnswerLegal, ha], fun _ => hb⟩
  · obtain ⟨hb, hr, -, ha⟩ := stepRelease_next hst
    rw [hheld] at hb
    exact State.inv_of_released (hb ▸ hinv) (by simp [State.AnswerLegal, ha]) hr
  · obtain ⟨hb, hr, -, ha⟩ := stepRead_next hst
    rw [hheld] at hb hr
    exact h.of_same_elements hb hr (by simp [State.AnswerLegal, ha])
  · obtain ⟨hb, hr, -, ha⟩ := stepUntaken_next hst
    rw [hheld] at hb hr
    exact h.of_same_elements hb hr (by simp [State.AnswerLegal, ha])
  · obtain ⟨hb, ha, hr', -⟩ := exec_next hst
    exact State.inv_of_released (hb ▸ hinv.perform i) (by simp [State.AnswerLegal, ha]) (hr'.trans hr)
  · obtain ⟨hb, ha, hr', -⟩ := raise_next hst
    exact State.inv_of_released (hb ▸ hinv.record c) (by simpa [State.AnswerLegal, ha] using (causeCode_ne c).2)
      (hr'.trans hr)

/-! ### Runs -/

/-- A run of one more step begins with the step. -/
theorem run_succ_of_step {s t : State} (h : step s = .next t) (n : Nat) :
    Host.Core.run Sys2Proof.core (n + 1) s = Host.Core.run Sys2Proof.core n t := by
  have hcore : Sys2Proof.core.step s = .next t := h
  simp only [Host.Core.run, hcore]

/-- A step always answers a next state (60_exceptions.md R96). -/
theorem step_total (s : State) : ∃ t, step s = .next t := by
  rcases step_cases s with ⟨_, hstep⟩ | ⟨_, _, hstep⟩ | ⟨_, _, hstep⟩ | ⟨_, _, _, hstep⟩ | ⟨_, _, _, _, hstep⟩ |
    ⟨_, _, i, _, _, _, hstep⟩ | ⟨_, _, _, _, _, _, hstep⟩
  case inr.inr.inr.inr.inr.inl => exact ⟨_, hstep.trans (exec_eq_complete_perform i _)⟩
  all_goals exact ⟨_, hstep⟩

/-- What every step keeps, every run keeps. -/
theorem run_preserves {P : State → Prop} (hP : ∀ s t, P s → step s = .next t → P t) (n : Nat) :
    ∀ {s t : State}, P s → Host.Core.run Sys2Proof.core n s = .next t → P t := by
  induction n with
  | zero =>
    intro s t hs hrun
    cases hrun
    exact hs
  | succ n ih =>
    intro s t hs hrun
    obtain ⟨s', hstep⟩ := step_total s
    rw [run_succ_of_step hstep] at hrun
    exact ih (hP s s' hs hstep) hrun

/-- (I6) A word that is taken leaves every mark that is set (10_state.md R18). -/
theorem Block.take_keeps_marks (b : Block) (w : Word) :
    (b.cv = true → (b.take w).cv = true) ∧ (b.rv = true → (b.take w).rv = true) ∧
      (b.fv = true → (b.take w).fv = true) ∧ (b.ill = true → (b.take w).ill = true) := by
  rcases hd : decode w with i | c
  · rw [Block.take_of_accept hd]
    cases i <;> simp [Block.perform]
  · rw [Block.take_of_reject hd]
    simp

/-! ### The obligations on the invariants -/

/-- Settles O37: I1 to I5 hold of the reset values, and the reset state has no response and `rst` released. -/
theorem resetStateMeetsInvariant : Obligations.ResetStateMeetsInvariant := State.inv_reset

/-- Settles O38, by the cases of a step. -/
theorem everyStepKeepsInvariant : Obligations.EveryStepKeepsInvariant := fun _ _ h hst => h.of_step hst

/-- Settles O39: the invariant of every step along the run, and the marks under a word that is taken. -/
theorem reachableStatesMeetInvariants : Obligations.ReachableStatesMeetInvariants := by
  refine ⟨fun ms n t hrun => ?_, fun s t hs hst => ?_, rfl, rfl, rfl⟩
  · have hstart : ({ State.reset with moves := ms } : State).Inv := State.inv_reset
    exact (run_preserves everyStepKeepsInvariant n hstart hrun).1
  · rcases step_block_of_not_resetting hs hst with hb | ⟨w, hb⟩
    · simp [hb]
    · rw [hb]
      exact s.block.take_keeps_marks w

end Sys2Proof.Machine
end

section
/-!
PROOF. What a run leaves: the block told from the words taken since the last reset follows the machine move by move.
-/

namespace Sys2Proof.Machine

/-! ### One more word -/

theorem lastResult_append_accept {α : Type} {w : Word} {i : Instr} (hd : decode w = .accept i)
    (result : Instr → Option α) (ws : List Word) :
    lastResult result (ws ++ [w]) = (result i).or (lastResult result ws) := by
  cases hres : result i <;> simp [lastResult, hd, Decoded.instr?, hres]

theorem lastResult_append_reject {α : Type} {w : Word} {c : Cause} (hd : decode w = .reject c)
    (result : Instr → Option α) (ws : List Word) : lastResult result (ws ++ [w]) = lastResult result ws := by
  simp [lastResult, hd, Decoded.instr?]

theorem rejections_append_accept {w : Word} {i : Instr} (hd : decode w = .accept i) (ws : List Word) :
    rejections (ws ++ [w]) = rejections ws := by
  simp [rejections, hd, Decoded.cause?]

theorem rejections_append_reject {w : Word} {c : Cause} (hd : decode w = .reject c) (ws : List Word) :
    rejections (ws ++ [w]) = rejections ws ++ [c] := by
  simp [rejections, hd, Decoded.cause?]

/-- With no word taken every element is at its reset value. -/
theorem blockOfWords_nil : blockOfWords [] = Block.reset := rfl

/-- The word taken last writes its group over what the words before it left. -/
theorem blockOfWords_append (ws : List Word) (w : Word) : blockOfWords (ws ++ [w]) = (blockOfWords ws).take w := by
  rcases hd : decode w with i | c
  · simp only [blockOfWords, lastResult_append_accept hd, rejections_append_accept hd, Block.take_of_accept hd]
    cases i <;> rfl
  · simp only [blockOfWords, lastResult_append_reject hd, rejections_append_reject hd, Block.take_of_reject hd]
    simp [Block.record]

/-! ### The machine follows the words taken -/

/-- The state agrees with the level of `rst` and the words taken since the last reset, and holds a reset. -/
structure State.Follows (s : State) (v : Bool × List Word) : Prop where
  block_eq : s.block = blockOfWords v.2
  rst_eq : s.rst = v.1
  resetHeld : s.ResetHeld

/-- One move of the host keeps the agreement. -/
theorem State.Follows.step_move {s : State} {v : Bool × List Word} (h : s.Follows v) {m : HostMove}
    {rest : List HostMove} (hm : s.moves = m :: rest) :
    ∃ t : State, step s = .next t ∧ t.Follows (afterMove v m) ∧ t.moves = rest := by
  obtain ⟨hb, hr, hreset⟩ := h
  have hheld := hreset.held_eq
  cases m with
  | issue w =>
    rcases hr' : s.rst with _ | _
    · obtain ⟨t, hstep, htb, htr, htm⟩ := step_of_issue hr' hm
      have hv : afterMove v (.issue w) = (false, v.2 ++ [w]) := by simp [afterMove, ← hr, hr']
      refine ⟨t, hstep, ⟨?_, ?_, ?_⟩, htm⟩
      · rw [htb, hb, hv, blockOfWords_append]
      · rw [htr, hv]
      · simp [State.ResetHeld, htr]
    · have hv : afterMove v (.issue w) = v := by simp [afterMove, ← hr, hr']
      rw [step_of_untaken hr' hm, hheld, hv]
      exact ⟨_, rfl, ⟨hb, hr, hreset⟩, rfl⟩
  | read raddr =>
    rw [step_of_read hm, hheld]
    exact ⟨_, rfl, ⟨hb, hr, hreset⟩, rfl⟩
  | assertRst =>
    rw [step_of_assert hm]
    exact ⟨_, rfl, ⟨blockOfWords_nil.symm, rfl, fun _ => rfl⟩, rfl⟩
  | releaseRst =>
    rw [step_of_release hm, hheld]
    exact ⟨_, rfl, ⟨hb, rfl, fun hr' => absurd hr' Bool.false_ne_true⟩, rfl⟩

/-- Running all the moves takes each of them in turn. -/
theorem State.Follows.run_moves (ms : List HostMove) :
    ∀ {s : State} {v : Bool × List Word}, s.Follows v → s.moves = ms →
      ∃ t : State, Host.Core.run Sys2Proof.core ms.length s = .next t ∧ t.Follows (ms.foldl afterMove v) ∧
        t.moves = [] := by
  induction ms with
  | nil => exact fun {s} {_} h hm => ⟨s, rfl, h, hm⟩
  | cons m rest ih =>
    intro s v h hm
    obtain ⟨s', hstep, hs', hm'⟩ := h.step_move hm
    rw [List.length_cons, run_succ_of_step hstep]
    exact ih hs' hm'

/-- Settles O40, by induction on the moves: the reset state follows the empty list of words. -/
theorem runLeavesMostRecentResults : Obligations.RunLeavesMostRecentResults := by
  intro ms
  have hstart : ({ State.reset with moves := ms } : State).Follows (false, []) :=
    ⟨blockOfWords_nil.symm, rfl, fun _ => rfl⟩
  obtain ⟨t, hrun, ⟨hb, hr, _⟩, hm⟩ := hstart.run_moves ms rfl
  exact ⟨t, hrun, hb, hr, hm⟩

end Sys2Proof.Machine
end

section
/-!
PROOF. The read space: the fields of the four read words, their values at reset, and reads.
-/

namespace Sys2Proof.Machine

theorem readWord_reset (raddr : BitVec 2) : readWord Block.reset raddr = 0x000000 := by
  revert raddr
  decide

/-- The fields of STATUS (10_state.md R17). -/
theorem statusWord_fields (b : Block) :
    (statusWord b).getLsbD 0 = b.crcok ∧ (statusWord b).getLsbD 1 = b.cv ∧ (statusWord b).getLsbD 2 = b.rv ∧
      (statusWord b).getLsbD 3 = b.fv ∧ (statusWord b).getLsbD 4 = b.ill ∧
      (statusWord b).extractLsb' 5 2 = b.ecause ∧ (statusWord b).extractLsb' 7 17 = 0 := by
  refine ⟨?_, ?_, ?_, ?_, ?_, ?_, ?_⟩
  case refine_6 | refine_7 =>
    refine BitVec.eq_of_getLsbD_eq fun i hi => ?_
    simp only [statusWord, BitVec.getLsbD_extractLsb', BitVec.getLsbD_append]
    interval_cases i <;> simp
  all_goals
    simp only [statusWord, BitVec.getLsbD_append]
    simp

/-- The fields of RESW (R17). -/
theorem resWord_fields (b : Block) :
    (resWord b).extractLsb' 0 8 = b.res ∧ (resWord b).extractLsb' 8 16 = 0 := by
  refine ⟨?_, ?_⟩ <;>
  · refine BitVec.eq_of_getLsbD_eq fun i hi => ?_
    simp only [resWord, BitVec.getLsbD_extractLsb', BitVec.getLsbD_append]
    interval_cases i <;> simp

/-- The fields of FLDW (R17). -/
theorem fldWord_fields (b : Block) :
    (fldWord b).extractLsb' 0 2 = b.rsel ∧ (fldWord b).getLsbD 2 = b.eob ∧ (fldWord b).getLsbD 3 = b.htr ∧
      (fldWord b).getLsbD 4 = b.otpd ∧ (fldWord b).getLsbD 5 = b.otpen ∧ (fldWord b).extractLsb' 6 18 = 0 := by
  refine ⟨?_, ?_, ?_, ?_, ?_, ?_⟩
  case refine_1 | refine_6 =>
    refine BitVec.eq_of_getLsbD_eq fun i hi => ?_
    simp only [fldWord, BitVec.getLsbD_extractLsb', BitVec.getLsbD_append]
    interval_cases i <;> simp
  all_goals
    simp only [fldWord, BitVec.getLsbD_append]
    simp

/-- A read gives back the selected word of the elements as the held reset leaves them, and keeps them (R39, R105). -/
theorem step_read_next {s : State} {raddr : BitVec 2} {rest : List HostMove} (hm : s.moves = .read raddr :: rest) :
    ∃ t : State, step s = .next t ∧ t.block = s.held.block ∧ t.rst = s.rst ∧ t.moves = rest ∧
      t.answer = .rdata (readWord s.held.block raddr) := by
  rw [step_of_read hm]
  exact ⟨_, rfl, rfl, State.held_rst s, rfl, rfl⟩

/-- Settles O33. -/
theorem resetValues : Obligations.ResetValues := ⟨rfl, readWord_reset⟩

/-- Settles O30: the first read holds the reset where `rst` is asserted, so the second finds nothing left to hold. -/
theorem readWordsShowEachField : Obligations.ReadWordsShowEachField := by
  refine ⟨fun b => ?_, fun s raddr rest hm => ?_⟩
  · simp only [readWord_zero, readWord_one, readWord_two, readWord_three, statusWord_fields, resWord_fields,
      fldWord_fields, and_self]
  · obtain ⟨t, hstep, htb, htr, htm, hta⟩ := step_read_next hm
    obtain ⟨u, hstep', hub, hur, hum, hua⟩ := step_read_next htm
    have hreset : t.ResetHeld := fun hr => by rw [htb, State.held_block, if_pos (htr.symm.trans hr)]
    rw [hreset.held_eq, htb] at hub hua
    exact ⟨s.held.block, t, u, State.held_block s, hstep, hstep', hta, hua.trans hta.symm, htb, hub, hum, htr,
      hur.trans htr⟩

end Sys2Proof.Machine
end

section
/-!
PROOF. No operation reads the state (10_state.md R10): each writes its own group with a value of its operands alone.
-/

namespace Sys2Proof.Machine

/-- The operation leaves the same value in the group from every block, or keeps the group in every block. -/
def WritesOrKeeps {α : Type} (group : Block → α) (i : Instr) : Prop :=
  (∀ b b' : Block, group (b.perform i) = group (b'.perform i)) ∨ ∀ b : Block, group (b.perform i) = group b

theorem writesOrKeeps_crcGroup (i : Instr) : WritesOrKeeps Block.crcGroup i := by
  cases i with
  | crcv raw chk => exact .inl fun _ _ => rfl
  | dec _ | setres _ _ | tglhtr _ | tglotp _ => exact .inr fun _ => rfl

theorem writesOrKeeps_resGroup (i : Instr) : WritesOrKeeps Block.resGroup i := by
  cases i with
  | crcv _ _ | dec _ => exact .inr fun _ => rfl
  | setres _ _ | tglhtr _ | tglotp _ => exact .inl fun _ _ => rfl

theorem writesOrKeeps_fldGroup (i : Instr) : WritesOrKeeps Block.fldGroup i := by
  cases i with
  | dec cur => exact .inl fun _ _ => rfl
  | crcv _ _ | setres _ _ | tglhtr _ | tglotp _ => exact .inr fun _ => rfl

/-- No operation touches `ILL` and `ECAUSE` (60_exceptions.md R91). -/
theorem perform_illGroup (b : Block) (i : Instr) : (b.perform i).illGroup = b.illGroup := by
  cases i <;> rfl

/-- What holds of the blocks holds of the states `exec` gives. -/
theorem WritesOrKeeps.exec {α : Type} {group : Block → α} {i : Instr} (h : WritesOrKeeps group i) :
    (∀ s s' t t' : State, exec i s = .next t → exec i s' = .next t' → group t.block = group t'.block) ∨
      (∀ s t : State, exec i s = .next t → group t.block = group s.block) := by
  rcases h with hwrites | hkeeps
  · refine .inl fun s s' t t' ht ht' => ?_
    rw [(exec_next ht).1, (exec_next ht').1]
    exact hwrites _ _
  · refine .inr fun s t ht => ?_
    rw [(exec_next ht).1]
    exact hkeeps _

/-- Settles O8, group by group. -/
theorem operationsReadNoState : Obligations.OperationsReadNoState := fun i =>
  ⟨(writesOrKeeps_crcGroup i).exec, (writesOrKeeps_resGroup i).exec, (writesOrKeeps_fldGroup i).exec,
    fun s _ ht => (congrArg Block.illGroup (exec_next ht).1).trans (perform_illGroup s.block i)⟩

end Sys2Proof.Machine
end

section
/-!
PROOF. The frame and its word: the decoder on the words the encoder gives, the operand field of format C, and the step
that runs an accepted word.
-/

namespace Sys2Proof.Machine

/-- The decoder gives back the operation of every encoded word: its format's fields select the branch (30_encoding.md
R54). -/
theorem decode_encode (i : Instr) : decode (encode i) = .accept i := by
  cases i with
  | crcv raw chk =>
    obtain ⟨hopc, hz1, hraw, hchk⟩ := formatC_fields 0x1 raw chk
    simp only [decode, encode, opcOf, hopc, hz1, hraw, hchk]
    rfl
  | setres cur arg =>
    obtain ⟨hopc, hz1, hz2, hcur, harg⟩ := formatR2_fields 0x3 cur arg
    simp only [decode, encode, opcOf, hopc, hz1, hz2, hcur, harg]
    rfl
  | dec cur =>
    obtain ⟨hopc, hz1, hz2, hcur, hz3⟩ := formatR1_fields 0x2 cur
    simp only [decode, encode, opcOf, hopc, hz1, hz2, hcur, hz3]
    rfl
  | tglhtr cur =>
    obtain ⟨hopc, hz1, hz2, hcur, hz3⟩ := formatR1_fields 0x4 cur
    simp only [decode, encode, opcOf, hopc, hz1, hz2, hcur, hz3]
    rfl
  | tglotp cur =>
    obtain ⟨hopc, hz1, hz2, hcur, hz3⟩ := formatR1_fields 0x5 cur
    simp only [decode, encode, opcOf, hopc, hz1, hz2, hcur, hz3]
    rfl

/-- Shifting `RAW` past `CHK` and OR-ing `CHK` in puts the two side by side (R49). -/
theorem initialRemainder_eq_append (raw : Raw) (chk : Byte) : initialRemainder 24 raw chk = raw ++ chk := by
  rw [BitVec.append_def, BitVec.shiftLeftZeroExtend_eq, BitVec.setWidth'_eq]
  rfl

/-- The operand field of a word of format C holds `RAW` above `CHK` (R49). -/
theorem formatC_operandField (opc : BitVec 4) (raw : Raw) (chk : Byte) :
    (formatC opc raw chk).extractLsb' 0 24 = raw ++ chk := by
  obtain ⟨-, -, hraw, hchk⟩ := formatC_fields opc raw chk
  calc (formatC opc raw chk).extractLsb' 0 24
      = fieldRaw (formatC opc raw chk) ++ fieldChk (formatC opc raw chk) :=
        (BitVec.extractLsb'_append_extractLsb'_eq_extractLsb' (len₁ := 8) (len₂ := 16) rfl).symm
    _ = raw ++ chk := by rw [hraw, hchk]

/-- The three bytes of a big-endian number, the first one highest (20_memory.md R34). -/
theorem bytes_of_bigEndian (b0 b1 b2 : Byte) :
    (b0 ++ b1 ++ b2).extractLsb' 16 8 = b0 ∧ (b0 ++ b1 ++ b2).extractLsb' 8 8 = b1 ∧
      (b0 ++ b1 ++ b2).extractLsb' 0 8 = b2 :=
  ⟨(BitVec.extractLsb'_append_eq_of_le (by decide)).trans BitVec.extractLsb'_append_eq_left,
    (BitVec.extractLsb'_append_eq_of_le (by decide)).trans BitVec.extractLsb'_append_eq_right,
    BitVec.extractLsb'_append_eq_right⟩

/-- A frame of any other length than three has no word (20_memory.md R36; log 15). -/
theorem frameWord_eq_none {frame : List Byte} (h : frame.length ≠ 3) : frameWord frame = none := by
  match frame with
  | [] | [_] | [_, _] | _ :: _ :: _ :: _ :: _ => rfl
  | [_, _, _] => exact absurd rfl h

/-- Settles O23: the frame is the operand field of its word, so the word's bytes are the frame's. -/
theorem frameIsBigEndian : Obligations.FrameIsBigEndian := by
  refine ⟨fun b0 b1 b2 => ?_, fun _ => frameWord_eq_none⟩
  have hfield := formatC_operandField 0x1 (b0 ++ b1) b2
  obtain ⟨hb0, hb1, hb2⟩ := bytes_of_bigEndian b0 b1 b2
  rw [← hfield, BitVec.extractLsb'_extractLsb'_of_le (by decide)] at hb0 hb1 hb2
  exact ⟨b0 ++ b1, b2, formatC 0x1 (b0 ++ b1) b2, rfl, BitVec.extractLsb'_append_eq_left,
    BitVec.extractLsb'_append_eq_right, rfl, rfl, decode_encode (.crcv (b0 ++ b1) b2), hb0, hb1, hb2,
    hfield.trans (initialRemainder_eq_append _ _).symm⟩

/-- An accepted word that is taken: the step is its operation, at the state with the word taken (R37, R54). -/
theorem step_of_accept {s : State} {w : Word} {rest : List HostMove} {i : Instr} (hr : s.rst = false)
    (hm : s.moves = .issue w :: rest) (hd : decode w = .accept i) : step s = exec i (s.withMoves rest) := by
  simp only [step, pending_issue hr hm, hd]

/-- Settles O29. -/
theorem stepRunsDecodedOperation : Obligations.StepRunsDecodedOperation := fun _ _ _ _ => step_of_accept

end Sys2Proof.Machine
end

section
/-!
PROOF. Encoding and decoding: the decoder once the operation code is known, the words it accepts and the words it
rejects, and the opcode map (30_encoding.md R48 to R55, 60_exceptions.md R92, R93).
-/

namespace Sys2Proof.Machine

/-! ### A word is made of its fields -/

/-- The fields of format C, side by side, are the word (30_encoding.md R48, R49). -/
theorem fields_formatC (w : Word) : fieldOpc w ++ fieldZ1 w ++ fieldRaw w ++ fieldChk w = w := by
  refine BitVec.eq_of_getLsbD_eq fun i hi => ?_
  simp only [fieldOpc, fieldZ1, fieldRaw, fieldChk, BitVec.getLsbD_append, BitVec.getLsbD_extractLsb']
  interval_cases i <;> simp

/-- `RAW` is `Z2` above `CUR` (R49 to R51). -/
theorem fieldRaw_eq_append (w : Word) : fieldRaw w = fieldZ2 w ++ fieldCur w :=
  (BitVec.extractLsb'_append_extractLsb'_eq_extractLsb' (len₁ := 8) (len₂ := 8) rfl).symm

/-- Format R2 is format C with a zero byte above `CUR` (R49, R50). -/
theorem formatR2_eq_formatC (opc : BitVec 4) (cur arg : Byte) :
    formatR2 opc cur arg = formatC opc (0x00#8 ++ cur) arg := by
  refine BitVec.eq_of_getLsbD_eq fun i hi => ?_
  simp only [formatR2, formatC, BitVec.getLsbD_append]
  interval_cases i <;> simp

/-- Format R1 is format R2 with `ARG` zero (R50, R51). -/
theorem formatR1_eq_formatR2 (opc : BitVec 4) (cur : Byte) : formatR1 opc cur = formatR2 opc cur 0x00 := rfl

section
variable {w : Word} {opc : BitVec 4} (hopc : fieldOpc w = opc) (hz1 : fieldZ1 w = 0)
include hopc hz1

/-- A word with its reserved fields zero is its operands in format C. -/
theorem formatC_of_fields : formatC opc (fieldRaw w) (fieldChk w) = w := by
  conv_rhs => rw [← fields_formatC w, hopc, hz1]
  rfl

/-- A word with its reserved fields zero is its operands in format R2. -/
theorem formatR2_of_fields (hz2 : fieldZ2 w = 0) : formatR2 opc (fieldCur w) (fieldArg w) = w := by
  conv_rhs => rw [← formatC_of_fields hopc hz1, fieldRaw_eq_append, hz2]
  exact formatR2_eq_formatC _ _ _

/-- A word with its reserved fields zero is its operand in format R1. -/
theorem formatR1_of_fields (hz2 : fieldZ2 w = 0) (hz3 : fieldZ3 w = 0) : formatR1 opc (fieldCur w) = w := by
  conv_rhs => rw [← formatR2_of_fields hopc hz1 hz2, show fieldArg w = 0 from hz3]
  rfl

end

/-! ### The decoder once the operation code is known -/

theorem definedOpc_eq_true_iff (opc : BitVec 4) :
    definedOpc opc = true ↔ opc ∈ ([0x1, 0x2, 0x3, 0x4, 0x5] : List (BitVec 4)) := by
  revert opc
  decide

theorem definedOpc_eq_false_iff (opc : BitVec 4) : definedOpc opc = false ↔ opc = 0x0 ∨ 0x6 ≤ opc := by
  revert opc
  decide

/-- A reserved field of the word's format is not zero: `Z1` in every format, `Z2` in R2 and R1, `Z3` in R1
(60_exceptions.md R93). -/
def ReservedSet (w : Word) : Prop :=
  fieldZ1 w ≠ 0 ∨ (fieldOpc w ∈ ([0x2, 0x3, 0x4, 0x5] : List (BitVec 4)) ∧ fieldZ2 w ≠ 0) ∨
    (fieldOpc w ∈ ([0x2, 0x4, 0x5] : List (BitVec 4)) ∧ fieldZ3 w ≠ 0)

/-- Everything the decoder can do: an operation code that is not in use is one rejection, a reserved field that is not
zero is the other, and every other word is the word of the operation it decodes to. -/
theorem decode_cases (w : Word) :
    (definedOpc (fieldOpc w) = false ∧ decode w = .reject .illegalOpcode) ∨
    (definedOpc (fieldOpc w) = true ∧ ReservedSet w ∧ decode w = .reject .reservedField) ∨
    (∃ i, encode i = w ∧ decode w = .accept i) := by
  fun_cases decode w
  case case1 hdef => exact .inl ⟨by simpa using hdef, rfl⟩
  all_goals refine .inr ?_
  case case2 hdef hz1 => exact .inl ⟨by simpa using hdef, .inl hz1, rfl⟩
  case case3 hdef hz1 hopc =>
    exact .inr ⟨.crcv (fieldRaw w) (fieldChk w), formatC_of_fields hopc (not_not.mp hz1), rfl⟩
  case case4 hdef hz1 hopc hz2 =>
    have hdef : definedOpc (fieldOpc w) = true := by simpa using hdef
    have hopc : fieldOpc w ∈ ([0x2, 0x3, 0x4, 0x5] : List (BitVec 4)) :=
      List.mem_of_ne_of_mem hopc ((definedOpc_eq_true_iff _).mp hdef)
    exact .inl ⟨hdef, .inr (.inl ⟨hopc, hz2⟩), rfl⟩
  case case5 hdef hz1 _ hz2 hopc =>
    exact .inr ⟨.setres (fieldCur w) (fieldArg w), formatR2_of_fields hopc (not_not.mp hz1) (not_not.mp hz2), rfl⟩
  case case6 hdef hz1 hopc hz2 hopc' hz3 =>
    have hdef : definedOpc (fieldOpc w) = true := by simpa using hdef
    have hopc : fieldOpc w ∈ ([0x2, 0x4, 0x5] : List (BitVec 4)) := by
      simpa only [List.mem_cons, hopc, hopc', false_or] using (definedOpc_eq_true_iff _).mp hdef
    exact .inl ⟨hdef, .inr (.inr ⟨hopc, hz3⟩), rfl⟩
  case case7 hdef hz1 _ hz2 _ hz3 hopc =>
    exact .inr ⟨.dec (fieldCur w),
      formatR1_of_fields hopc (not_not.mp hz1) (not_not.mp hz2) (not_not.mp hz3), rfl⟩
  case case8 hdef hz1 _ hz2 _ hz3 _ hopc =>
    exact .inr ⟨.tglhtr (fieldCur w),
      formatR1_of_fields hopc (not_not.mp hz1) (not_not.mp hz2) (not_not.mp hz3), rfl⟩
  case case9 hdef hz1 h1 hz2 h3 hz3 h2 h4 =>
    have hdef : definedOpc (fieldOpc w) = true := by simpa using hdef
    have hopc : fieldOpc w = 0x5 := by
      simpa only [List.mem_cons, List.not_mem_nil, h1, h2, h3, h4, false_or, or_false] using
        (definedOpc_eq_true_iff _).mp hdef
    exact .inr ⟨.tglotp (fieldCur w),
      formatR1_of_fields hopc (not_not.mp hz1) (not_not.mp hz2) (not_not.mp hz3), rfl⟩

/-! ### The words of operations -/

theorem fieldOpc_encode (i : Instr) : fieldOpc (encode i) = opcOf i := by
  cases i with
  | crcv raw chk => exact (formatC_fields _ raw chk).1
  | setres cur arg => exact (formatR2_fields _ cur arg).1
  | dec cur | tglhtr cur | tglotp cur => exact (formatR1_fields _ cur).1

theorem definedOpc_encode (i : Instr) : definedOpc (fieldOpc (encode i)) = true := by
  rw [fieldOpc_encode]
  cases i <;> rfl

theorem not_reservedSet_formatR1 (opc : BitVec 4) (cur : Byte) : ¬ReservedSet (formatR1 opc cur) := by
  obtain ⟨-, hz1, hz2, -, hz3⟩ := formatR1_fields opc cur
  simp [ReservedSet, hz1, hz2, hz3]

/-- The word of an operation has its format's reserved fields zero; its operation code reserves no other. -/
theorem not_reservedSet_encode (i : Instr) : ¬ReservedSet (encode i) := by
  cases i with
  | crcv raw chk =>
    have hopc : fieldOpc (encode (.crcv raw chk)) = 0x1 := fieldOpc_encode _
    obtain ⟨-, hz1, -⟩ := formatC_fields 0x1 raw chk
    rintro (hne | ⟨hmem, -⟩ | ⟨hmem, -⟩)
    · exact hne hz1
    · exact absurd (hopc ▸ hmem) (by decide)
    · exact absurd (hopc ▸ hmem) (by decide)
  | setres cur arg =>
    have hopc : fieldOpc (encode (.setres cur arg)) = 0x3 := fieldOpc_encode _
    obtain ⟨-, hz1, hz2, -⟩ := formatR2_fields 0x3 cur arg
    rintro (hne | ⟨-, hne⟩ | ⟨hmem, -⟩)
    · exact hne hz1
    · exact hne hz2
    · exact absurd (hopc ▸ hmem) (by decide)
  | dec cur | tglhtr cur | tglotp cur => exact not_reservedSet_formatR1 _ cur

/-- An accepted word is the word of its operation: the other two outcomes are rejections. -/
theorem encode_of_decode {w : Word} {i : Instr} (h : decode w = .accept i) : encode i = w := by
  rcases decode_cases w with ⟨-, hd⟩ | ⟨-, -, hd⟩ | ⟨j, hj, hd⟩ <;> rw [hd] at h
  · nomatch h
  · nomatch h
  · cases h
    exact hj

theorem decode_eq_accept_iff {w : Word} {i : Instr} : decode w = .accept i ↔ encode i = w :=
  ⟨encode_of_decode, fun h => h ▸ decode_encode i⟩

/-- Settles O16: the fields of the encoded word select the operation's branch of the decoder. -/
theorem decodeReadsBackEncode : Obligations.DecodeReadsBackEncode := decode_encode

/-- Settles O17, by the cases of the decoder. -/
theorem encodeReadsBackDecode : Obligations.EncodeReadsBackDecode := fun _ _ => encode_of_decode

/-! ### The rejected words -/

theorem decode_eq_illegalOpcode_iff {w : Word} :
    decode w = .reject .illegalOpcode ↔ definedOpc (fieldOpc w) = false := by
  refine ⟨fun h => ?_, decode_of_undefined_opc⟩
  rcases decode_cases w with ⟨hdef, -⟩ | ⟨-, -, hd⟩ | ⟨i, -, hd⟩
  · exact hdef
  · simp [hd] at h
  · simp [hd] at h

theorem decode_eq_reservedField_iff {w : Word} :
    decode w = .reject .reservedField ↔ definedOpc (fieldOpc w) = true ∧ ReservedSet w := by
  rcases decode_cases w with ⟨hdef, hd⟩ | ⟨hdef, hset, hd⟩ | ⟨i, rfl, hd⟩
  · simp [hdef, hd]
  · simp [hdef, hset, hd]
  · simp [hd, definedOpc_encode i, not_reservedSet_encode i]

/-- A rejected word that is taken: the step raises its cause, at the state with the word taken (R91). -/
theorem step_of_reject {s : State} {w : Word} {rest : List HostMove} {c : Cause} (hr : s.rst = false)
    (hm : s.moves = .issue w :: rest) (hd : decode w = .reject c) : step s = raise c (s.withMoves rest) := by
  simp only [step, pending_issue hr hm, hd]

/-- Settles O25: the conditions are those of the decoder's cases, and what a cause records is `raise`. -/
theorem rejectedWordsAndCauses : Obligations.RejectedWordsAndCauses := by
  refine ⟨fun w => ?_, fun w => ?_, fun s w rest hr hm => ⟨?_, ?_⟩, fun w hw => ?_, fun w hw => ?_⟩
  · exact decode_eq_illegalOpcode_iff.trans (definedOpc_eq_false_iff _)
  · exact decode_eq_reservedField_iff.trans (and_congr_left' (definedOpc_eq_true_iff _))
  · exact step_of_reject hr hm
  · exact step_of_reject hr hm
  · fin_cases hw <;> rfl
  · fin_cases hw <;> rfl

/-- Settles O18: the decoder is this chain of tests, with the operation codes in use written as a list. -/
theorem decodeFollowsRuleOrder : Obligations.DecodeFollowsRuleOrder := by
  intro w
  have hdef : (!definedOpc (fieldOpc w)) = true ↔
      fieldOpc w ∉ ([0x1, 0x2, 0x3, 0x4, 0x5] : List (BitVec 4)) := by
    rw [← definedOpc_eq_true_iff, Bool.not_eq_true']
    simp
  simp only [decode, hdef]
  rfl

end Sys2Proof.Machine
end

section
/-!
PROOF. The opcode map (30_encoding.md R53): a word under a row's mask shows the fields that select the operation, and
the legal words are counted by the operations.
-/

namespace Sys2Proof.Machine

/-- The word of every operation lies in the operation's row. -/
theorem opcodeRow_encode (i : Instr) : Laws.OpcodeRow.Statement i := by
  cases i with
  | crcv raw chk => exact Laws.OpcodeRow.crcv raw chk
  | dec cur => exact Laws.OpcodeRow.dec cur
  | setres cur arg => exact Laws.OpcodeRow.setres cur arg
  | tglhtr cur => exact Laws.OpcodeRow.tglhtr cur
  | tglotp cur => exact Laws.OpcodeRow.tglotp cur

/-- An accepted word lies in its operation's row. -/
theorem opcodeRow_of_decode {w : Word} {i : Instr} (h : decode w = .accept i) :
    w &&& (rowOf i).mask = (rowOf i).pattern :=
  encode_of_decode h ▸ opcodeRow_encode i

/-- A field that the mask covers whole is the pattern's in every word of the row. -/
theorem field_of_masked {w mask pattern : Word} (h : w &&& mask = pattern) (start len : Nat)
    (hmask : mask.extractLsb' start len = BitVec.allOnes len) :
    w.extractLsb' start len = pattern.extractLsb' start len := by
  rw [← h, BitVec.extractLsb'_and, hmask, BitVec.and_allOnes]

/-- A word that shows an operation code and zeros under the mask of bits 31:24 is its operands in format C. -/
theorem formatC_of_masked {w : Word} {opc : BitVec 4} (h : w &&& 0xFF000000 = formatC opc 0 0) :
    formatC opc (fieldRaw w) (fieldChk w) = w := by
  obtain ⟨hopc, hz1, -⟩ := formatC_fields opc 0 0
  exact formatC_of_fields ((field_of_masked h 28 4 (by decide)).trans hopc)
    ((field_of_masked h 24 4 (by decide)).trans hz1)

/-- A word that shows an operation code and zeros under the mask of bits 31:16 is its operands in format R2. -/
theorem formatR2_of_masked {w : Word} {opc : BitVec 4} (h : w &&& 0xFFFF0000 = formatR2 opc 0 0) :
    formatR2 opc (fieldCur w) (fieldArg w) = w := by
  obtain ⟨hopc, hz1, hz2, -⟩ := formatR2_fields opc 0 0
  exact formatR2_of_fields ((field_of_masked h 28 4 (by decide)).trans hopc)
    ((field_of_masked h 24 4 (by decide)).trans hz1) ((field_of_masked h 16 8 (by decide)).trans hz2)

/-- A word that shows an operation code and zeros under the mask of bits 31:16 and 7:0 is its operand in format R1. -/
theorem formatR1_of_masked {w : Word} {opc : BitVec 4} (h : w &&& 0xFFFF00FF = formatR1 opc 0) :
    formatR1 opc (fieldCur w) = w := by
  obtain ⟨hopc, hz1, hz2, -, hz3⟩ := formatR1_fields opc 0
  exact formatR1_of_fields ((field_of_masked h 28 4 (by decide)).trans hopc)
    ((field_of_masked h 24 4 (by decide)).trans hz1) ((field_of_masked h 16 8 (by decide)).trans hz2)
    ((field_of_masked h 0 8 (by decide)).trans hz3)

theorem crcv_row_iff (w : Word) :
    w &&& 0xFF000000 = 0x10000000 ↔ decode w = .accept (.crcv (fieldRaw w) (fieldChk w)) :=
  ⟨fun h => decode_eq_accept_iff.mpr (formatC_of_masked (opc := 0x1) (h.trans (by decide))), opcodeRow_of_decode⟩

theorem dec_row_iff (w : Word) : w &&& 0xFFFF00FF = 0x20000000 ↔ decode w = .accept (.dec (fieldCur w)) :=
  ⟨fun h => decode_eq_accept_iff.mpr (formatR1_of_masked (opc := 0x2) (h.trans (by decide))), opcodeRow_of_decode⟩

theorem setres_row_iff (w : Word) :
    w &&& 0xFFFF0000 = 0x30000000 ↔ decode w = .accept (.setres (fieldCur w) (fieldArg w)) :=
  ⟨fun h => decode_eq_accept_iff.mpr (formatR2_of_masked (opc := 0x3) (h.trans (by decide))), opcodeRow_of_decode⟩

theorem tglhtr_row_iff (w : Word) : w &&& 0xFFFF00FF = 0x40000000 ↔ decode w = .accept (.tglhtr (fieldCur w)) :=
  ⟨fun h => decode_eq_accept_iff.mpr (formatR1_of_masked (opc := 0x4) (h.trans (by decide))), opcodeRow_of_decode⟩

theorem tglotp_row_iff (w : Word) : w &&& 0xFFFF00FF = 0x50000000 ↔ decode w = .accept (.tglotp (fieldCur w)) :=
  ⟨fun h => decode_eq_accept_iff.mpr (formatR1_of_masked (opc := 0x5) (h.trans (by decide))), opcodeRow_of_decode⟩

/-- No word lies in two rows: the two patterns would agree under both masks. -/
theorem opcodeTable_disjoint :
    opcodeTable.Pairwise (fun a b => ∀ w : Word, ¬(w &&& a.mask = a.pattern ∧ w &&& b.mask = b.pattern)) := by
  have hdiffer : opcodeTable.Pairwise (fun a b => a.pattern &&& b.mask ≠ b.pattern &&& a.mask) := by decide
  refine hdiffer.imp fun hne w ⟨ha, hb⟩ => hne ?_
  rw [← ha, ← hb, BitVec.and_assoc, BitVec.and_assoc, BitVec.and_comm (OpRow.mask _)]

/-! ### The number of legal words -/

/-- An operation is its constructor and its operands. -/
def instrEquiv : Instr ≃ (Raw × Byte) ⊕ Byte ⊕ (Byte × Byte) ⊕ Byte ⊕ Byte where
  toFun
    | .crcv raw chk => .inl (raw, chk)
    | .dec cur => .inr (.inl cur)
    | .setres cur arg => .inr (.inr (.inl (cur, arg)))
    | .tglhtr cur => .inr (.inr (.inr (.inl cur)))
    | .tglotp cur => .inr (.inr (.inr (.inr cur)))
  invFun
    | .inl (raw, chk) => .crcv raw chk
    | .inr (.inl cur) => .dec cur
    | .inr (.inr (.inl (cur, arg))) => .setres cur arg
    | .inr (.inr (.inr (.inl cur))) => .tglhtr cur
    | .inr (.inr (.inr (.inr cur))) => .tglotp cur
  left_inv i := by cases i <;> rfl
  right_inv x := by rcases x with _ | _ | _ | _ | _ <;> rfl

theorem natCard_bitVec (n : Nat) : Nat.card (BitVec n) = 2 ^ n := by
  rw [Nat.card_congr BitVec.equivFin.toEquiv, Nat.card_fin]

theorem natCard_instr : Nat.card Instr = 16843520 := by
  rw [Nat.card_congr instrEquiv]
  simp only [Nat.card_sum, Nat.card_prod, natCard_bitVec]
  norm_num

theorem encode_injective : Function.Injective encode := fun i j h => by
  simpa [decode_encode] using congrArg decode h

/-- The legal words are the words of the operations. -/
theorem instr?_decode_isSome_iff (w : Word) : (decode w).instr?.isSome = true ↔ w ∈ Set.range encode := by
  simp only [Set.mem_range, ← decode_eq_accept_iff]
  cases decode w <;> simp [Decoded.instr?]

theorem natCard_legal_words : Nat.card { w : Word // (decode w).instr?.isSome = true } = 16843520 := by
  rw [Nat.card_congr (Equiv.subtypeEquivRight instr?_decode_isSome_iff)]
  exact (Nat.card_range_of_injective encode_injective).trans natCard_instr

/-- Settles O19, row by row, and by counting the operations. -/
theorem opcodeMapSelectsByMatchAndMask : Obligations.OpcodeMapSelectsByMatchAndMask :=
  ⟨fun w => ⟨crcv_row_iff w, dec_row_iff w, setres_row_iff w, tglhtr_row_iff w,
      tglotp_row_iff w⟩,
    fun _ _ => opcodeRow_of_decode,
    fun _ hopc => decode_of_undefined_opc ((definedOpc_eq_false_iff _).mpr hopc),
    opcodeTable_disjoint, natCard_legal_words⟩

end Sys2Proof.Machine
end

section
/-!
PROOF. The assembler's lines (30_encoding.md R56): each format as an OR of its shifted operands, and the lines that
have a word.
-/

namespace Sys2Proof.Machine

/-- Format C: the operation code, `RAW` shifted past `CHK`, and `CHK` (R48, R49). -/
theorem formatC_eq_or (opc : BitVec 4) (raw : Raw) (chk : Byte) :
    formatC opc raw chk = formatC opc 0 0 ||| (raw.setWidth 32 <<< 8) ||| chk.setWidth 32 := by
  refine BitVec.eq_of_getLsbD_eq fun i hi => ?_
  simp only [formatC, BitVec.getLsbD_or, BitVec.getLsbD_append, BitVec.getLsbD_shiftLeft, BitVec.getLsbD_setWidth]
  interval_cases i <;> simp

/-- Format R2: the operation code, `CUR` shifted past `ARG`, and `ARG` (R48, R50). -/
theorem formatR2_eq_or (opc : BitVec 4) (cur arg : Byte) :
    formatR2 opc cur arg = formatR2 opc 0 0 ||| (cur.setWidth 32 <<< 8) ||| arg.setWidth 32 := by
  refine BitVec.eq_of_getLsbD_eq fun i hi => ?_
  simp only [formatR2, BitVec.getLsbD_or, BitVec.getLsbD_append, BitVec.getLsbD_shiftLeft, BitVec.getLsbD_setWidth]
  interval_cases i <;> simp

/-- Format R1: the operation code, and `CUR` shifted past `Z3` (R48, R51). -/
theorem formatR1_eq_or (opc : BitVec 4) (cur : Byte) :
    formatR1 opc cur = formatR1 opc 0 ||| (cur.setWidth 32 <<< 8) := by
  rw [formatR1_eq_formatR2, formatR2_eq_or]
  exact BitVec.or_zero

/-! ### Lines with and without a word -/

theorem assemble_of_wf {l : Line} (h : l.wf = true) : assemble l = some (lineWord l) := if_pos h

theorem assemble_of_not_wf {l : Line} (h : l.wf = false) : assemble l = none := if_neg (by simp [h])

theorem assemble_crcv {raw chk : Nat} (hraw : raw < 65536) (hchk : chk < 256) : assemble (.crcv raw chk) =
    some (0x10000000 ||| (BitVec.ofNat 32 raw <<< 8) ||| BitVec.ofNat 32 chk) := by
  rw [assemble_of_wf (by simp [Line.wf, hraw, hchk])]
  refine congrArg some ((formatC_eq_or 0x1 (BitVec.ofNat 16 raw) (BitVec.ofNat 8 chk)).trans ?_)
  rw [BitVec.setWidth_ofNat_of_le_of_lt (by decide) hraw, BitVec.setWidth_ofNat_of_le_of_lt (by decide) hchk]
  rfl

theorem assemble_setres {cur arg : Nat} (hcur : cur < 256) (harg : arg < 256) : assemble (.setres cur arg) =
    some (0x30000000 ||| (BitVec.ofNat 32 cur <<< 8) ||| BitVec.ofNat 32 arg) := by
  rw [assemble_of_wf (by simp [Line.wf, hcur, harg])]
  refine congrArg some ((formatR2_eq_or 0x3 (BitVec.ofNat 8 cur) (BitVec.ofNat 8 arg)).trans ?_)
  rw [BitVec.setWidth_ofNat_of_le_of_lt (by decide) hcur, BitVec.setWidth_ofNat_of_le_of_lt (by decide) harg]
  rfl

/-- Format R1 of an operand that is written as a number in range. -/
theorem formatR1_ofNat (opc : BitVec 4) {cur : Nat} (hcur : cur < 256) :
    formatR1 opc (BitVec.ofNat 8 cur) = formatR1 opc 0 ||| (BitVec.ofNat 32 cur <<< 8) := by
  rw [formatR1_eq_or, BitVec.setWidth_ofNat_of_le_of_lt (by decide) hcur]

/-- Settles O21, line by line: in range the operands fill the fields of the format, out of range the line is ill
formed (log 12). -/
theorem assemblerFollowsSyntaxTable : Obligations.AssemblerFollowsSyntaxTable := by
  refine ⟨fun _ _ => assemble_crcv, fun cur hcur => ?_, fun _ _ => assemble_setres, fun cur hcur => ?_,
    fun cur hcur => ?_, fun v hv => ?_, fun raw chk h => ?_, fun cur arg h => ?_, fun cur h => ⟨?_, ?_, ?_⟩,
    fun v h => ?_⟩
  · exact (assemble_of_wf (by simp [Line.wf, hcur])).trans (congrArg some (formatR1_ofNat 0x2 hcur))
  · exact (assemble_of_wf (by simp [Line.wf, hcur])).trans (congrArg some (formatR1_ofNat 0x4 hcur))
  · exact (assemble_of_wf (by simp [Line.wf, hcur])).trans (congrArg some (formatR1_ofNat 0x5 hcur))
  · exact assemble_of_wf (decide_eq_true hv)
  · exact assemble_of_not_wf (by rcases h with h | h <;> simp [Line.wf, h])
  · exact assemble_of_not_wf (by rcases h with h | h <;> simp [Line.wf, h])
  · exact assemble_of_not_wf (by simp [Line.wf, h])
  · exact assemble_of_not_wf (by simp [Line.wf, h])
  · exact assemble_of_not_wf (by simp [Line.wf, h])
  · exact assemble_of_not_wf (decide_eq_false (Nat.not_lt.mpr h))

end Sys2Proof.Machine
end

section
/-!
PROOF. The low byte of the initial remainder passes through the division untouched, so the checksum stands in the
remainder as it was given (40_crc.md R68), and `CRCG` leaves the one that verifies (30_encoding.md R57).
-/

namespace Sys2Proof.Machine

/-- A byte XORed into the start is XORed into the remainder before every iteration: no bit under test is one of its
bits. -/
theorem crcLoop_xor_byte (rem0 : Rem) (c : Byte) (k : Nat) (hk : k ≤ 16) :
    (crcLoop (rem0 ^^^ c.setWidth 24) k).1 = (crcLoop rem0 k).1 ^^^ c.setWidth 24 := by
  induction k with
  | zero => rfl
  | succ k ih =>
    have hclear : (c.setWidth 24).getLsbD (23 - k) = false := by
      rw [BitVec.getLsbD_setWidth, BitVec.getLsbD_of_ge c _ (by omega), Bool.and_false]
    simp only [crcLoop_remainder, ih (by omega), BitVec.getLsbD_xor, hclear, Bool.xor_false]
    split
    · ac_rfl
    · rfl

/-- `CHK` is XORed into the initial remainder of the zero checksum (R49). -/
theorem initialRemainder_eq_xor (raw : Raw) (chk : Byte) :
    initialRemainder 24 raw chk = initialRemainder 24 raw 0x00 ^^^ chk.setWidth 24 := by
  have hchk : chk.setWidth 24 = 0#16 ++ chk := BitVec.setWidth_eq_append (by decide)
  rw [initialRemainder_eq_append, initialRemainder_eq_append, hchk, BitVec.xor_append, BitVec.xor_zero]
  exact congrArg (raw ++ ·) BitVec.zero_xor.symm

/-- With its high bits zero, the remainder of the zero checksum is its low byte. -/
theorem crcRemainder_zero_checksum (raw : Raw) : crcRemainder raw 0x00 = (crc8 raw).setWidth 24 :=
  calc crcRemainder raw 0x00
      = (crcRemainder raw 0x00).extractLsb' 8 16 ++ (crcRemainder raw 0x00).extractLsb' 0 8 :=
        (BitVec.extractLsb'_eq_self.symm.trans
          (BitVec.extractLsb'_append_extractLsb'_eq_extractLsb' (len₁ := 8) (len₂ := 16) rfl).symm)
    _ = 0#16 ++ crc8 raw := by
        rw [crcRemainder_high_zero]
        rfl
    _ = (crc8 raw).setWidth 24 := (BitVec.setWidth_eq_append (by decide)).symm

/-- `REM` is the CRC of `RAW` XOR the checksum, zero above (40_crc.md R68). -/
theorem crcRemainder_eq_xor (raw : Raw) (chk : Byte) : crcRemainder raw chk = (crc8 raw ^^^ chk).setWidth 24 :=
  calc crcRemainder raw chk
      = crcDivide (initialRemainder 24 raw 0x00 ^^^ chk.setWidth 24) := by
        rw [crcRemainder, initialRemainder_eq_xor]
    _ = crcRemainder raw 0x00 ^^^ chk.setWidth 24 := crcLoop_xor_byte _ chk 16 (Nat.le_refl _)
    _ = (crc8 raw ^^^ chk).setWidth 24 := by rw [crcRemainder_zero_checksum, BitVec.setWidth_xor]

/-- A pair verifies exactly when the checksum is the CRC of the raw value (R68). -/
theorem crcRemainder_eq_zero_iff (raw : Raw) (chk : Byte) : crcRemainder raw chk = 0 ↔ chk = crc8 raw := by
  have hzero : ∀ x : Byte, x.setWidth 24 = (0 : Rem) ↔ x = 0 := fun x =>
    ⟨fun h => by simpa using congrArg (BitVec.setWidth 8) h, fun h => by rw [h]; rfl⟩
  rw [crcRemainder_eq_xor, hzero]
  exact BitVec.xor_eq_zero_iff.trans eq_comm

/-- Settles O22: after `CRCG raw` the low byte of `REM` is the CRC of `raw`. -/
theorem crcgGeneratesVerifyingChecksum : Obligations.CrcgGeneratesVerifyingChecksum := by
  refine ⟨fun raw => ?_, fun raw s => ⟨?_, ?_⟩⟩
  · simp [assemble, Line.wf, lineWord, lineInstr?]
  · simp [lineInstr?]
  · refine ⟨_, _, rfl, rfl, ?_, ?_⟩
    · exact decide_eq_true ((crcRemainder_eq_zero_iff raw _).mpr rfl)
    · exact decide_eq_true_iff.trans ((crcRemainder_eq_zero_iff raw 0x00).trans eq_comm)

end Sys2Proof.Machine
end

section
/-!
PROOF. The algebra of the long division: it is linear over XOR, and bits it does not test pass through it.
-/

namespace Sys2Proof.Machine

variable {n : Nat}

/-- One more iteration XORs in the divisor, or nothing. -/
theorem crcLoop_succ_eq_xor (rem0 : BitVec n) (k : Nat) :
    (crcLoop rem0 (k + 1)).1 = (crcLoop rem0 k).1 ^^^
      (if (crcLoop rem0 k).1.getLsbD (23 - k) then BitVec.ofNat n 0x988000 >>> k else 0#n) := by
  rw [crcLoop_remainder]
  split
  · rfl
  · exact BitVec.xor_zero.symm

theorem crcLoop_succ_of_bit_clear {rem0 : BitVec n} {k : Nat} (h : (crcLoop rem0 k).1.getLsbD (23 - k) = false) :
    (crcLoop rem0 (k + 1)).1 = (crcLoop rem0 k).1 := by
  rw [crcLoop_remainder, h]
  rfl

/-- What is XORed in at the XOR of two bits is the XOR of what is XORed in at each. -/
theorem ite_xor_eq_xor_ite (p q : Bool) (d : BitVec n) :
    (if p ^^ q then d else 0#n) = (if p then d else 0#n) ^^^ (if q then d else 0#n) := by
  cases p <;> cases q <;> simp

/-- The loop is linear over XOR: the bit under test is the XOR of the two bits under test. -/
theorem crcLoop_xor (a b : BitVec n) (k : Nat) :
    (crcLoop (a ^^^ b) k).1 = (crcLoop a k).1 ^^^ (crcLoop b k).1 := by
  induction k with
  | zero => rfl
  | succ k ih =>
    simp only [crcLoop_succ_eq_xor, ih, BitVec.getLsbD_xor, ite_xor_eq_xor_ite]
    ac_rfl

theorem crcDivide_xor (a b : BitVec n) : crcDivide (a ^^^ b) = crcDivide a ^^^ crcDivide b :=
  crcLoop_xor a b 16

/-- The loop changes nothing while the bits it has tested, and those above, are zero. -/
theorem crcLoop_of_tested_bits_zero {rem0 : BitVec n} {k : Nat}
    (h : ∀ j, 24 - k ≤ j → rem0.getLsbD j = false) : (crcLoop rem0 k).1 = rem0 := by
  induction k with
  | zero => rfl
  | succ k ih =>
    have hkept : (crcLoop rem0 k).1 = rem0 := ih fun j hj => h j (by omega)
    rw [crcLoop_succ_of_bit_clear (by rw [hkept]; exact h (23 - k) (by omega)), hkept]

theorem crcLoop_zero_vector (k : Nat) : (crcLoop (0 : BitVec n) k).1 = 0 :=
  crcLoop_of_tested_bits_zero fun _ _ => BitVec.getLsbD_zero

/-- The CRC is linear over XOR (40_crc.md R68). -/
theorem crc8_xor (a b : Raw) : crc8 (a ^^^ b) = crc8 a ^^^ crc8 b := by
  have hinitial : initialRemainder 24 (a ^^^ b) 0x00 =
      initialRemainder 24 a 0x00 ^^^ initialRemainder 24 b 0x00 := by
    rw [initialRemainder_eq_append, initialRemainder_eq_append, initialRemainder_eq_append, BitVec.xor_append]
    rfl
  simp only [crc8, crcRemainder, hinitial, crcDivide_xor, BitVec.extractLsb'_xor]

theorem crc8_zero : crc8 0x0000 = 0x00 :=
  congrArg (BitVec.extractLsb' 0 8) (crcLoop_zero_vector (n := 24) 16)

end Sys2Proof.Machine
end

section
/-!
PROOF. CRCV (40_crc.md R66): its effect as the sixteen iterations written out, and the words of `OPC` 1.
-/

namespace Sys2Proof.Machine

/-- The loop is the iterations 0 to `k - 1` in order. -/
theorem crcLoop_eq_foldl {n : Nat} (rem0 : BitVec n) (k : Nat) :
    crcLoop rem0 k = (List.range k).foldl (fun v i => crcIter i v) (rem0, BitVec.ofNat n 0x988000) := by
  induction k with
  | zero => rfl
  | succ k ih =>
    rw [crcLoop_succ, ih, List.range_succ, List.foldl_append]
    rfl

/-- CRCV leaves the remainder, the verdict on it and the mark, and nothing else changed. -/
theorem exec_crcv (raw : Raw) (chk : Byte) (s : State) :
    exec (.crcv raw chk) s = .next { s with
      block := { s.block with
        rem := crcRemainder raw chk, crcok := decide (crcRemainder raw chk = 0), cv := true }
      answer := .resp 0b00 } := rfl

/-- A word of `OPC` 1 with `Z1` zero is the word of a CRCV, and with `Z1` not zero it is rejected. -/
theorem decode_of_opc_crcv {w : Word} (hopc : fieldOpc w = 0x1) :
    decode w = if fieldZ1 w = 0 then .accept (.crcv (fieldRaw w) (fieldChk w)) else .reject .reservedField := by
  split
  next hz1 => exact decode_eq_accept_iff.mpr (formatC_of_fields hopc hz1)
  next hz1 => exact decode_of_z1_ne_zero (by rw [hopc]; rfl) hz1

/-- The divisors of the sixteen iterations and the one left over (90_conflicts.md C5). -/
theorem crcLoop_divisors (rem0 : Rem) : (List.range 17).map (fun k => (crcLoop rem0 k).2) =
    [0x988000, 0x4C4000, 0x262000, 0x131000, 0x098800, 0x04C400, 0x026200, 0x013100, 0x009880,
     0x004C40, 0x002620, 0x001310, 0x000988, 0x0004C4, 0x000262, 0x000131, 0x000098] := by
  simp only [crcLoop_divisor]
  decide

set_option maxRecDepth 8000 in
/-- The worked examples of R66: the frame that verifies, and the same frame with one bit of its checksum changed. -/
theorem crcRemainder_worked_examples :
    crcRemainder 0x683A 0x7C = 0x000000 ∧ crcRemainder 0x683A 0x7D = 0x000001 := by
  decide

/-- Settles O1: the word is format C's, the iterations are the loop's, and the decoder's case of `OPC` 1 is the rest. -/
theorem crcvComputesLongDivision : Obligations.CrcvComputesLongDivision := by
  refine ⟨fun raw chk => ⟨?_, ?_⟩, fun raw chk s rem hrem => ?_, fun w => decode_of_opc_crcv,
    fun w i hopc hz1 hd => ?_, crcLoop_divisors, by decide, crcRemainder_worked_examples⟩
  · exact formatC_eq_or 0x1 raw chk
  · exact (formatC_operandField 0x1 raw chk).trans (initialRemainder_eq_append raw chk).symm
  · have hloop : rem = crcRemainder raw chk :=
      hrem.trans (congrArg Prod.fst (crcLoop_eq_foldl (initialRemainder 24 raw chk) 16).symm)
    rw [hloop, exec_crcv]
  · have hreject : decode w = .reject .reservedField := (decode_of_opc_crcv hopc).trans (if_neg hz1)
    nomatch hreject.symm.trans hd

end Sys2Proof.Machine
end

section
/-!
PROOF. The remainder is the CRC of `RAW` XOR the checksum (40_crc.md R68), and the pairs that verify are counted by the
raw values.
-/

namespace Sys2Proof.Machine

theorem crcRemainder_low_byte (raw : Raw) (chk : Byte) :
    (crcRemainder raw chk).extractLsb' 0 8 = crc8 raw ^^^ chk := by
  rw [crcRemainder_eq_xor, BitVec.extractLsb'_setWidth_of_le (by decide), BitVec.extractLsb'_eq_self]

/-- A change of the checksum alone turns a verifying pair into a failing one. -/
theorem crcRemainder_xor_checksum_ne_zero {raw : Raw} {chk e : Byte} (he : e ≠ 0) (h : crcRemainder raw chk = 0) :
    crcRemainder raw (chk ^^^ e) ≠ 0 := by
  rw [crcRemainder_eq_zero_iff] at h
  rw [Ne, crcRemainder_eq_zero_iff, h]
  simpa using he

/-- A change of `RAW` alone whose CRC is not zero turns a verifying pair into a failing one. -/
theorem crcRemainder_xor_raw_ne_zero {raw e : Raw} {chk : Byte} (he : crc8 e ≠ 0x00) (h : crcRemainder raw chk = 0) :
    crcRemainder (raw ^^^ e) chk ≠ 0 := by
  rw [crcRemainder_eq_zero_iff] at h
  rw [Ne, crcRemainder_eq_zero_iff, crc8_xor, h, eq_comm]
  simpa using he

/-- The verifying pairs are the raw values, each with its CRC. -/
theorem natCard_verifying_pairs : Nat.card { p : Raw × Byte // crcRemainder p.1 p.2 = 0 } = 65536 := by
  have hrange (p : Raw × Byte) : crcRemainder p.1 p.2 = 0 ↔ p ∈ Set.range fun raw : Raw => (raw, crc8 raw) := by
    rw [crcRemainder_eq_zero_iff]
    simp [Prod.ext_iff, eq_comm]
  have hinjective : Function.Injective fun raw : Raw => (raw, crc8 raw) := fun _ _ h => congrArg Prod.fst h
  rw [Nat.card_congr (Equiv.subtypeEquivRight hrange)]
  exact (Nat.card_range_of_injective hinjective).trans (natCard_bitVec 16)

/-- Settles O9, from `REM` being the CRC of `RAW` XOR the checksum, zero above. -/
theorem remainderIsCrcXorChecksum : Obligations.RemainderIsCrcXorChecksum := by
  refine ⟨fun raw s => ⟨_, exec_crcv raw 0x00 s, rfl⟩, fun raw chk s => ⟨_, exec_crcv raw chk s, ?_, ?_, ?_⟩,
    fun raw => ⟨crc8 raw, ?_, fun chk => (crcRemainder_eq_zero_iff raw chk).mp⟩,
    fun _ _ _ => crcRemainder_xor_checksum_ne_zero, crc8_xor, crc8_zero, natCard_verifying_pairs⟩
  · exact crcRemainder_low_byte raw chk
  · exact crcRemainder_high_zero raw chk
  · exact decide_eq_true_iff.trans (crcRemainder_eq_zero_iff raw chk)
  · exact (crcRemainder_eq_zero_iff raw _).mpr rfl

end Sys2Proof.Machine
end

section
/-!
PROOF. The loop invariant of the long division (40_crc.md R69): the bits of the remainder and of the divisor before each
iteration.
-/

namespace Sys2Proof.Machine

theorem shiftRight_eq_zero_of_high_bits {x : Rem} {k : Nat} (h : ∀ j, k ≤ j → x.getLsbD j = false) : x >>> k = 0 :=
  BitVec.eq_of_getLsbD_eq fun i _ => by
    rw [BitVec.getLsbD_ushiftRight, h (k + i) (by omega)]
    exact BitVec.getLsbD_zero.symm

theorem crcLoop_shift_eq_zero (rem0 : Rem) {k : Nat} (hk : k ≤ 16) : (crcLoop rem0 k).1 >>> (24 - k) = 0 :=
  shiftRight_eq_zero_of_high_bits (crcLoop_high_bits_zero rem0 k hk)

theorem divisor_low_bits_zero {m : Nat} (hm : m < 15) : (0x988000 : Rem).getLsbD m = false := by
  revert m
  decide

/-- The divisor before iteration `i` has its highest set bit at `23 - i`. -/
theorem divisor_shift_highest_bit {i : Nat} (hi : i < 16) :
    ((0x988000 : Rem) >>> i).getLsbD (23 - i) = true ∧ (0x988000 : Rem) >>> i >>> (24 - i) = 0 := by
  refine ⟨?_, shiftRight_eq_zero_of_high_bits fun j hj => ?_⟩
  · rw [divisor_shift_getLsbD (Nat.le_refl _) (by omega), decide_eq_true rfl]
  · rw [divisor_shift_getLsbD (by omega) (by omega), decide_eq_false (by omega)]

/-- The divisor before iteration `i` has its lowest set bit at `15 - i`. -/
theorem divisor_shift_lowest_bit {i : Nat} (hi : i < 16) :
    ((0x988000 : Rem) >>> i).getLsbD (15 - i) = true ∧
      ∀ j < 15 - i, ((0x988000 : Rem) >>> i).getLsbD j = false := by
  refine ⟨?_, fun j hj => ?_⟩
  · rw [BitVec.getLsbD_ushiftRight, show i + (15 - i) = 15 by omega]
    decide
  · rw [BitVec.getLsbD_ushiftRight, divisor_low_bits_zero (by omega)]

theorem crcRemainder_le (raw : Raw) (chk : Byte) : crcRemainder raw chk ≤ 0x0000FF := by
  rw [crcRemainder_eq_xor, BitVec.le_def, BitVec.toNat_setWidth_of_le (by decide)]
  exact Nat.le_of_lt_succ (crc8 raw ^^^ chk).isLt

/-- With its high bits zero, the remainder is zero exactly when its low byte is. -/
theorem crcRemainder_eq_zero_iff_low_byte (raw : Raw) (chk : Byte) :
    crcRemainder raw chk = 0 ↔ (crcRemainder raw chk).extractLsb' 0 8 = 0x00 := by
  rw [crcRemainder_eq_zero_iff, crcRemainder_low_byte]
  exact eq_comm.trans BitVec.xor_eq_zero_iff.symm

/-- Settles O10, from the bits of the remainder and of the divisor before each iteration. -/
theorem longDivisionClearsHighBits : Obligations.LongDivisionClearsHighBits := by
  refine ⟨fun rem0 i hi => ?_, fun rem0 i hi => ?_,
    fun raw chk s => ⟨_, exec_crcv raw chk s, crcRemainder_high_zero raw chk, crcRemainder_le raw chk, ?_⟩⟩
  · rw [crcLoop_divisor]
    obtain ⟨htop, habove⟩ := divisor_shift_highest_bit hi
    exact ⟨crcLoop_shift_eq_zero rem0 (by omega), rfl, htop, habove, divisor_shift_lowest_bit hi⟩
  · have hhigh := crcLoop_high_bits_zero rem0 (i + 1) (by omega)
    refine ⟨fun _ => ⟨hhigh (23 - i) (by omega), ?_⟩, crcLoop_succ_of_bit_clear,
      shiftRight_eq_zero_of_high_bits fun j hj => hhigh j (by omega)⟩
    rw [crcLoop_shift_eq_zero rem0 (by omega)]
    exact shiftRight_eq_zero_of_high_bits fun j hj => hhigh j (by omega)
  · exact decide_eq_true_iff.trans (crcRemainder_eq_zero_iff_low_byte raw chk)

end Sys2Proof.Machine
end

section
/-!
PROOF. The working width of the division (40_crc.md R70): a width of 24 bits or more adds zeros above, and a smaller one
loses the top bit of `RAW`.
-/

namespace Sys2Proof.Machine

section
variable {n : Nat} (hn : 24 ≤ n)
include hn

theorem initialRemainder_eq_setWidth (raw : Raw) (chk : Byte) :
    initialRemainder n raw chk = (initialRemainder 24 raw chk).setWidth n := by
  refine BitVec.eq_of_getLsbD_eq fun i hi => ?_
  simp only [initialRemainder, BitVec.getLsbD_setWidth, BitVec.getLsbD_or, BitVec.getLsbD_shiftLeft]
  by_cases hlow : i < 24
  · simp [hi, hlow, show i - 8 < n by omega, show i - 8 < 24 by omega]
  · have hraw := BitVec.getLsbD_of_ge raw (i - 8) (by omega)
    have hchk := BitVec.getLsbD_of_ge chk i (by omega)
    simp [hraw, hchk]

theorem divisor_shift_setWidth (k : Nat) :
    BitVec.ofNat n 0x988000 >>> k = ((0x988000 : Rem) >>> k).setWidth n := by
  have hdivisor : (0x988000 : Rem).setWidth n = BitVec.ofNat n 0x988000 :=
    BitVec.setWidth_ofNat_of_le_of_lt hn (by decide : 0x988000 < 2 ^ 24)
  rw [BitVec.setWidth_ushiftRight hn, hdivisor]

/-- In a width of 24 bits or more the loop runs as in 24 bits, with zeros above. -/
theorem crcLoop_setWidth (rem0 : Rem) (k : Nat) :
    (crcLoop (rem0.setWidth n) k).1 = (crcLoop rem0 k).1.setWidth n := by
  induction k with
  | zero => rfl
  | succ k ih =>
    have hbit : ((crcLoop rem0 k).1.setWidth n).getLsbD (23 - k) = (crcLoop rem0 k).1.getLsbD (23 - k) := by
      rw [BitVec.getLsbD_setWidth, decide_eq_true (by omega), Bool.true_and]
    rw [crcLoop_remainder, crcLoop_remainder, ih, hbit, divisor_shift_setWidth hn]
    split
    · exact BitVec.setWidth_xor.symm
    · rfl

end

/-- The shift carries bit 15 of `RAW` to bit 23, which a width below 24 bits does not have. -/
theorem initialRemainder_loses_top_bit {n : Nat} (hn : n < 24) (chk : Byte) :
    initialRemainder n 0x0000 chk = initialRemainder n (BitVec.twoPow 16 15) chk := by
  refine BitVec.eq_of_getLsbD_eq fun i hi => ?_
  have hlost : (BitVec.twoPow 16 15).getLsbD (i - 8) = (0x0000 : Raw).getLsbD (i - 8) := by
    rw [BitVec.getLsbD_twoPow, decide_eq_false (show ¬15 = i - 8 by omega), Bool.and_false]
    exact BitVec.getLsbD_zero.symm
  simp only [initialRemainder, BitVec.getLsbD_or, BitVec.getLsbD_shiftLeft, BitVec.getLsbD_setWidth, hlost]

/-- Settles O11: from 24 bits on the loop is the 24-bit one, and below 24 two raw values have the same start. -/
theorem divisionIndependentOfWidth : Obligations.DivisionIndependentOfWidth := by
  refine ⟨fun n raw chk hn => ?_, fun n chk hn =>
    ⟨0x0000, BitVec.twoPow 16 15, by decide, initialRemainder_loses_top_bit hn chk⟩⟩
  rw [initialRemainder_eq_setWidth hn]
  exact crcLoop_setWidth hn (initialRemainder 24 raw chk) 16

end Sys2Proof.Machine
end

section
/-!
PROOF. The corner cases of CRCV (40_crc.md R72). The divisor has an even number of bits set, so the division keeps the
parity of a frame: one or three changed bits never leave zero; two do not either, for no two frame bits leave the same
remainder.
-/

namespace Sys2Proof.Machine

/-! ### The parity of a frame -/

/-- The parity of the number of bits set: true when it is odd. -/
def parity (x : Rem) : Bool := (List.range 24).foldr (fun i p => x.getLsbD i ^^ p) false

theorem parity_xor (x y : Rem) : parity (x ^^^ y) = (parity x ^^ parity y) := by
  unfold parity
  induction List.range 24 with
  | nil => rfl
  | cons i is ih =>
    rw [List.foldr_cons, ih, BitVec.getLsbD_xor]
    simp only [List.foldr_cons, Bool.xor_assoc, Bool.xor_left_comm]

theorem parity_twoPow {i : Nat} (hi : i < 24) : parity (BitVec.twoPow 24 i) = true := by
  revert i
  decide

/-- The divisor of every iteration has four bits set. -/
theorem parity_divisor {k : Nat} (hk : k < 16) : parity ((0x988000 : Rem) >>> k) = false := by
  revert k
  decide

theorem parity_crcLoop (frame : Rem) {k : Nat} (hk : k ≤ 16) : parity (crcLoop frame k).1 = parity frame := by
  induction k with
  | zero => rfl
  | succ k ih =>
    rw [crcLoop_remainder]
    split
    · have heven : parity (BitVec.ofNat 24 0x988000 >>> k) = false := parity_divisor hk
      rw [parity_xor, heven, Bool.xor_false, ih (by omega)]
    · exact ih (by omega)

theorem crcDivide_ne_zero_of_odd {frame : Rem} (h : parity frame = true) : crcDivide frame ≠ 0 := fun hzero => by
  have hkept : parity (crcDivide frame) = true := (parity_crcLoop frame (Nat.le_refl 16)).trans h
  rw [hzero] at hkept
  exact absurd hkept (by decide)

/-! ### One, two or three changed frame bits -/

set_option maxRecDepth 8000 in
/-- The 24 frame bits leave 24 different remainders. -/
theorem crcDivide_twoPow_nodup : ((List.range 24).map fun i => crcDivide (BitVec.twoPow 24 i)).Nodup := by
  decide

theorem crcDivide_twoPow_xor_ne_zero {i j : Nat} (hi : i < 24) (hj : j < 24) (hij : i ≠ j) :
    crcDivide (BitVec.twoPow 24 i ^^^ BitVec.twoPow 24 j) ≠ 0 := fun hzero => by
  rw [crcDivide_xor] at hzero
  exact hij (List.inj_on_of_nodup_map crcDivide_twoPow_nodup (List.mem_range.mpr hi) (List.mem_range.mpr hj)
    (BitVec.xor_eq_zero_iff.mp hzero))

theorem or_twoPow_eq_xor {x : Rem} {i : Nat} (h : x.getLsbD i = false) :
    x ||| BitVec.twoPow 24 i = x ^^^ BitVec.twoPow 24 i := by
  refine BitVec.eq_of_getLsbD_eq fun j hj => ?_
  rw [BitVec.getLsbD_or, BitVec.getLsbD_xor, BitVec.getLsbD_twoPow]
  by_cases hij : i = j
  · rw [← hij, h, Bool.false_or, Bool.false_xor]
  · simp [hij]

theorem or_twoPow_eq_self {x : Rem} {i : Nat} (h : x.getLsbD i = true) : x ||| BitVec.twoPow 24 i = x := by
  refine BitVec.eq_of_getLsbD_eq fun j hj => ?_
  rw [BitVec.getLsbD_or, BitVec.getLsbD_twoPow]
  by_cases hij : i = j
  · rw [← hij, h, Bool.true_or]
  · simp [hij]

theorem twoPow_or_twoPow_of_ne {i j : Nat} (hij : i ≠ j) :
    BitVec.twoPow 24 i ||| BitVec.twoPow 24 j = BitVec.twoPow 24 i ^^^ BitVec.twoPow 24 j :=
  or_twoPow_eq_xor (by simp [BitVec.getLsbD_twoPow, hij])

/-- One bit, or two: an odd frame, or the XOR of two different remainders. -/
theorem crcDivide_two_bits_ne_zero {i j : Nat} (hi : i < 24) (hj : j < 24) :
    crcDivide (BitVec.twoPow 24 i ||| BitVec.twoPow 24 j) ≠ 0 := by
  by_cases hij : i = j
  · rw [hij, BitVec.or_self]
    exact crcDivide_ne_zero_of_odd (parity_twoPow hj)
  · rw [twoPow_or_twoPow_of_ne hij]
    exact crcDivide_twoPow_xor_ne_zero hi hj hij

/-- One bit, two or three: a bit that is there already adds nothing, and three different bits are an odd frame. -/
theorem crcDivide_three_bits_ne_zero {i j k : Nat} (hi : i < 24) (hj : j < 24) (hk : k < 24) :
    crcDivide (BitVec.twoPow 24 i ||| BitVec.twoPow 24 j ||| BitVec.twoPow 24 k) ≠ 0 := by
  rcases hbit : (BitVec.twoPow 24 i ||| BitVec.twoPow 24 j).getLsbD k with _ | _
  case true =>
    rw [or_twoPow_eq_self hbit]
    exact crcDivide_two_bits_ne_zero hi hj
  by_cases hij : i = j
  · rw [hij, BitVec.or_self]
    exact crcDivide_two_bits_ne_zero hj hk
  · rw [or_twoPow_eq_xor hbit, twoPow_or_twoPow_of_ne hij]
    refine crcDivide_ne_zero_of_odd ?_
    rw [parity_xor, parity_xor, parity_twoPow hi, parity_twoPow hj, parity_twoPow hk]
    rfl

/-! ### The number of verifying frames -/

/-- A frame is a raw value with a checksum after it. -/
def frameEquiv : Raw × Byte ≃ Rem where
  toFun p := p.1 ++ p.2
  invFun frame := (frame.extractLsb' 8 16, frame.extractLsb' 0 8)
  left_inv _ := Prod.ext BitVec.extractLsb'_append_eq_left BitVec.extractLsb'_append_eq_right
  right_inv _ := (BitVec.extractLsb'_append_extractLsb'_eq_extractLsb' (len₁ := 8) (len₂ := 16) rfl).trans
    BitVec.extractLsb'_eq_self

theorem crcDivide_frameEquiv (p : Raw × Byte) : crcDivide (frameEquiv p) = crcRemainder p.1 p.2 :=
  congrArg crcDivide (initialRemainder_eq_append p.1 p.2).symm

theorem natCard_verifying_frames : Nat.card { frame : Rem // crcDivide frame = 0 } = 2 ^ 16 := by
  have hverifies (p : Raw × Byte) : crcRemainder p.1 p.2 = 0 ↔ crcDivide (frameEquiv p) = 0 := by
    rw [crcDivide_frameEquiv]
  exact (Nat.card_congr (frameEquiv.subtypeEquiv hverifies)).symm.trans natCard_verifying_pairs

/-! ### The corner cases -/

set_option maxRecDepth 8000 in
theorem crc8_twoPow_ne_zero {i : Nat} (hi : i < 16) : crc8 (BitVec.twoPow 16 i) ≠ 0x00 := by
  revert i
  decide

set_option maxRecDepth 8000 in
/-- The values of R72 (b) and (c). -/
theorem crc8_corner_values :
    (crc8 0xFFFF = 0x2D ∧ crcRemainder 0xFFFF 0xFF = 0x0000D2) ∧ crc8 0x683A = 0x7C ∧ crc8 0x6838 = 0x1E := by
  decide

set_option maxRecDepth 8000 in
/-- Two verifying frames that differ in four bits. -/
theorem four_bit_change_undetected :
    crcDivide (0x683A7C : Rem) = 0 ∧ crcDivide (0xE83A5F : Rem) = 0 ∧ (0x683A7C : Rem) ^^^ 0xE83A5F =
      BitVec.twoPow 24 23 ||| BitVec.twoPow 24 5 ||| BitVec.twoPow 24 1 ||| BitVec.twoPow 24 0 := by
  decide

/-- Settles O12: by linearity a changed frame leaves the remainder of the changed bits. -/
theorem crcvCornerCases : Obligations.CrcvCornerCases := by
  obtain ⟨hones, hvalues⟩ := crc8_corner_values
  refine ⟨⟨fun k _ => crcLoop_zero_vector k, (crcRemainder_eq_zero_iff _ _).mpr crc8_zero.symm⟩, hones, hvalues,
    ⟨fun raw chk i hi => ?_, fun frame i j k hi hj hk hframe => ?_, four_bit_change_undetected,
      natCard_verifying_frames⟩,
    fun raw chk s s' => ⟨_, _, _, exec_crcv raw chk s, exec_crcv raw chk s', exec_crcv raw chk _, rfl, rfl⟩⟩
  · exact ⟨crc8_twoPow_ne_zero hi, crcRemainder_xor_raw_ne_zero (crc8_twoPow_ne_zero hi)⟩
  · have hchange := crcDivide_xor frame (BitVec.twoPow 24 i ||| BitVec.twoPow 24 j ||| BitVec.twoPow 24 k)
    rw [hchange, hframe]
    exact fun hzero => crcDivide_three_bits_ne_zero hi hj hk (BitVec.zero_xor.symm.trans hzero)

end Sys2Proof.Machine
end

section
/-!
PROOF. The conventional CRC-8 (40_crc.md R73): eight iterations on a byte in its place in the remainder are the eight
bits of that byte, shifted eight places down.
-/

namespace Sys2Proof.Machine

/-- One bit of the conventional CRC in 24 bits: the bit shifted out meets bit 8 of the generator 0x131. -/
theorem conventionalBit_setWidth (c : Byte) : (conventionalBit c).setWidth 24 =
    if c.getLsbD 7 then (c.setWidth 24 <<< 1) ^^^ (0x131 : Rem) else c.setWidth 24 <<< 1 := by
  revert c
  decide

theorem conventionalByte_zero (b : Byte) : conventionalByte 0x00 b = Nat.repeat conventionalBit 8 b :=
  congrArg (Nat.repeat conventionalBit 8) BitVec.zero_xor

/-- The divisor before iteration `k` is the generator 0x131 in its place. -/
theorem divisor_shift_eq_generator_shift {k : Nat} (hk : k < 16) :
    (0x988000 : Rem) >>> k = (0x131 : Rem) <<< (15 - k) := by
  revert k
  decide

/-- An iteration on a remainder that is the byte under test in its place is one bit of the conventional CRC. -/
theorem crcLoop_succ_of_byte {rem0 : Rem} {c : Byte} {k : Nat} (hk : k < 16)
    (h : (crcLoop rem0 k).1 = c.setWidth 24 <<< (16 - k)) :
    (crcLoop rem0 (k + 1)).1 = (conventionalBit c).setWidth 24 <<< (15 - k) := by
  have hbit : (c.setWidth 24 <<< (16 - k) : Rem).getLsbD (23 - k) = c.getLsbD 7 := by
    simp [show 23 - k < 24 by omega, show ¬23 - k < 16 - k by omega, show 23 - k - (16 - k) = 7 by omega]
  have hshift : (c.setWidth 24 <<< (16 - k) : Rem) = c.setWidth 24 <<< 1 <<< (15 - k) := by
    rw [← BitVec.shiftLeft_add, show 1 + (15 - k) = 16 - k by omega]
  have hdivisor : BitVec.ofNat 24 0x988000 >>> k = (0x131 : Rem) <<< (15 - k) := divisor_shift_eq_generator_shift hk
  rw [crcLoop_remainder, h, hbit, hdivisor, conventionalBit_setWidth, hshift]
  split
  · exact (BitVec.shiftLeft_xor_distrib ..).symm
  · rfl

/-- From a remainder that is a byte in its place, `k` more iterations are `k` bits of the conventional CRC. -/
theorem crcLoop_add_of_byte {rem0 : Rem} {c : Byte} {j : Nat} (h : (crcLoop rem0 j).1 = c.setWidth 24 <<< (16 - j))
    (k : Nat) (hk : j + k ≤ 16) :
    (crcLoop rem0 (j + k)).1 = (Nat.repeat conventionalBit k c).setWidth 24 <<< (16 - (j + k)) := by
  induction k with
  | zero => exact h
  | succ k ih =>
    rw [← Nat.add_assoc, crcLoop_succ_of_byte (by omega) (ih (by omega)), show 16 - (j + k + 1) = 15 - (j + k) by omega]
    rfl

/-- The initial remainder is the two bytes of `RAW`, each in its place. -/
theorem initialRemainder_eq_bytes (raw : Raw) : initialRemainder 24 raw 0x00 =
    ((raw.extractLsb' 8 8).setWidth 24 <<< 16) ^^^ ((raw.extractLsb' 0 8).setWidth 24 <<< 8) := by
  refine BitVec.eq_of_getLsbD_eq fun i hi => ?_
  simp only [initialRemainder, BitVec.getLsbD_or, BitVec.getLsbD_xor, BitVec.getLsbD_shiftLeft,
    BitVec.getLsbD_setWidth, BitVec.getLsbD_extractLsb']
  interval_cases i <;> simp

/-- The first eight iterations test no bit of a byte in the place of the low byte of `RAW`. -/
theorem crcLoop_eight_of_low_byte (b : Byte) :
    (crcLoop (b.setWidth 24 <<< 8 : Rem) 8).1 = b.setWidth 24 <<< 8 :=
  crcLoop_of_tested_bits_zero fun j hj => by
    rw [BitVec.getLsbD_shiftLeft, BitVec.getLsbD_setWidth, BitVec.getLsbD_of_ge b (j - 8) (by omega), Bool.and_false,
      Bool.and_false]

/-- The first eight iterations leave the conventional CRC of the high byte, XORed into the low byte. -/
theorem crcLoop_eight (raw : Raw) : (crcLoop (initialRemainder 24 raw 0x00) 8).1 =
    (conventionalByte 0x00 (raw.extractLsb' 8 8) ^^^ raw.extractLsb' 0 8).setWidth 24 <<< 8 := by
  have hhigh : (crcLoop ((raw.extractLsb' 8 8).setWidth 24 <<< 16 : Rem) 8).1 =
      (conventionalByte 0x00 (raw.extractLsb' 8 8)).setWidth 24 <<< 8 := by
    rw [conventionalByte_zero]
    exact crcLoop_add_of_byte (j := 0) rfl 8 (by decide)
  rw [initialRemainder_eq_bytes, crcLoop_xor, hhigh, crcLoop_eight_of_low_byte, BitVec.setWidth_xor,
    BitVec.shiftLeft_xor_distrib]

theorem crc8_eq_conventionalCrc8 (raw : Raw) : crc8 raw = conventionalCrc8 raw := by
  have hloop : crcRemainder raw 0x00 = (conventionalCrc8 raw).setWidth 24 :=
    (crcLoop_add_of_byte (crcLoop_eight raw) 8 (by decide)).trans (BitVec.shiftLeft_zero _)
  rw [crc8, hloop, BitVec.extractLsb'_setWidth_of_le (by decide), BitVec.extractLsb'_eq_self]

/-- Settles O13: with the mask 0xFF doing nothing to a byte, the folds over bytes and bits are `conventionalCrc8`. -/
theorem crcEqualsConventionalCrc8 : Obligations.CrcEqualsConventionalCrc8 := by
  intro raw
  have hmask (c : Byte) : c &&& 0xFF = c := BitVec.and_allOnes
  simp only [hmask]
  exact crc8_eq_conventionalCrc8 raw

end Sys2Proof.Machine
end

section
/-!
PROOF. The codec on register bytes, one bit at a time (41_codec.md R77 to R80): the source of each result bit, what the
encoders do to one another, and the fields a DEC reads from what they give (R81).
-/

namespace Sys2Proof.Machine

/-! ### The source of each bit -/

/-- `RES_MASK` holds bits 7 and 0 (00_scope.md R4). -/
theorem resMask_getLsbD {i : Nat} (hi : i < 8) : Config.resMask.getLsbD i = decide (i = 7 ∨ i = 0) := by
  interval_cases i <;> rfl

/-- `KEEP_MASK` holds the other six (R4, 90_conflicts.md C2). -/
theorem keepMask_getLsbD {i : Nat} (hi : i < 8) : Config.keepMask.getLsbD i = !decide (i = 7 ∨ i = 0) := by
  interval_cases i <;> rfl

/-- SETRES takes the resolution bits from `ARG` and the others from `CUR`. -/
theorem setResolution_getLsbD (cur arg : Byte) {i : Nat} (hi : i < 8) :
    (setResolution cur arg).getLsbD i = if i = 7 ∨ i = 0 then arg.getLsbD i else cur.getLsbD i := by
  rw [setResolution, BitVec.getLsbD_or, BitVec.getLsbD_and, BitVec.getLsbD_and, resMask_getLsbD hi, keepMask_getLsbD hi]
  split
  next hres => simp [hres]
  next hkeep => simp [hkeep]

/-- An XOR with a single bit inverts that bit. -/
theorem xor_twoPow_getLsbD (x : Byte) (k : Nat) {i : Nat} (hi : i < 8) :
    (x ^^^ BitVec.twoPow 8 k).getLsbD i = if i = k then !x.getLsbD i else x.getLsbD i := by
  rw [BitVec.getLsbD_xor, BitVec.getLsbD_twoPow]
  split
  next hk => simp [← hk, hi]
  next hk => simp [Ne.symm hk]

/-- TGLHTR inverts bit 2. -/
theorem toggleHeater_getLsbD (cur : Byte) {i : Nat} (hi : i < 8) :
    (toggleHeater cur).getLsbD i = if i = 2 then !cur.getLsbD i else cur.getLsbD i :=
  xor_twoPow_getLsbD cur 2 hi

/-- TGLOTP inverts bit 1. -/
theorem toggleOtp_getLsbD (cur : Byte) {i : Nat} (hi : i < 8) :
    (toggleOtp cur).getLsbD i = if i = 1 then !cur.getLsbD i else cur.getLsbD i :=
  xor_twoPow_getLsbD cur 1 hi

/-- Two bytes that agree under a mask agree in each bit of the mask. -/
theorem getLsbD_of_masked {c d mask : Byte} (h : c &&& mask = d &&& mask) {i : Nat} (hmask : mask.getLsbD i = true) :
    c.getLsbD i = d.getLsbD i := by
  simpa [hmask] using congrArg (fun x : Byte => x.getLsbD i) h

/-! ### The encoders on one another's results -/

theorem toggleHeater_toggleHeater (c : Byte) : toggleHeater (toggleHeater c) = c := by
  rw [toggleHeater, toggleHeater, BitVec.xor_assoc, BitVec.xor_self, BitVec.xor_zero]

theorem toggleOtp_toggleOtp (c : Byte) : toggleOtp (toggleOtp c) = c := by
  rw [toggleOtp, toggleOtp, BitVec.xor_assoc, BitVec.xor_self, BitVec.xor_zero]

/-- The two masks together are 0x06, in either order. -/
theorem toggleHeater_toggleOtp (c : Byte) : toggleHeater (toggleOtp c) = c ^^^ 0x06 :=
  BitVec.xor_assoc c 0x02 0x04

theorem toggleOtp_toggleHeater (c : Byte) : toggleOtp (toggleHeater c) = c ^^^ 0x06 :=
  BitVec.xor_assoc c 0x04 0x02

/-- A later SETRES overrides an earlier one. -/
theorem setResolution_setResolution (c a b : Byte) : setResolution (setResolution c a) b = setResolution c b := by
  refine BitVec.eq_of_getLsbD_eq fun i hi => ?_
  simp only [setResolution_getLsbD _ _ hi]
  split <;> rfl

/-- SETRES and an inversion commute: the inverted bit is no resolution bit. -/
theorem setResolution_xor_twoPow (c a : Byte) {k : Nat} (hk : k ≠ 7 ∧ k ≠ 0) :
    setResolution (c ^^^ BitVec.twoPow 8 k) a = setResolution c a ^^^ BitVec.twoPow 8 k := by
  refine BitVec.eq_of_getLsbD_eq fun i hi => ?_
  rw [xor_twoPow_getLsbD _ k hi, setResolution_getLsbD _ _ hi, setResolution_getLsbD _ _ hi, xor_twoPow_getLsbD _ k hi]
  by_cases hres : i = 7 ∨ i = 0
  · rw [if_pos hres, if_neg (by omega), if_pos hres]
  · rw [if_neg hres, if_neg hres]

theorem setResolution_toggleHeater (c a : Byte) : setResolution (toggleHeater c) a = toggleHeater (setResolution c a) :=
  setResolution_xor_twoPow c a (k := 2) (by decide)

theorem setResolution_toggleOtp (c a : Byte) : setResolution (toggleOtp c) a = toggleOtp (setResolution c a) :=
  setResolution_xor_twoPow c a (k := 1) (by decide)

/-- What SETRES leaves under `RES_MASK` is the request. -/
theorem setResolution_and_resMask (cur arg : Byte) : setResolution cur arg &&& 0x81 = arg &&& 0x81 := by
  refine BitVec.eq_of_getLsbD_eq fun i hi => ?_
  have hmask : (0x81 : Byte).getLsbD i = decide (i = 7 ∨ i = 0) := resMask_getLsbD hi
  rw [BitVec.getLsbD_and, BitVec.getLsbD_and, hmask, setResolution_getLsbD _ _ hi]
  by_cases hres : i = 7 ∨ i = 0 <;> simp [hres]

/-- A request of the resolution bits that stand already changes nothing. -/
theorem setResolution_eq_self {cur arg : Byte} (h : arg &&& 0x81 = cur &&& 0x81) : setResolution cur arg = cur :=
  calc setResolution cur arg = (cur &&& 0x7E) ||| (cur &&& 0x81) := congrArg (cur &&& 0x7E ||| ·) h
    _ = cur &&& (0x7E ||| 0x81) := BitVec.and_or_distrib_left.symm
    _ = cur := BitVec.and_allOnes

/-- The bits no encoder changes: bit 6 and bits 5:3 (41_codec.md R82). -/
theorem encoders_keep_bits_6_to_3 {c a x : Byte} (hx : x ∈ [setResolution c a, toggleHeater c, toggleOtp c])
    {i : Nat} (hi : 3 ≤ i ∧ i < 7) : x.getLsbD i = c.getLsbD i := by
  have hi' : i < 8 := by omega
  simp only [List.mem_cons, List.not_mem_nil, or_false] at hx
  rcases hx with rfl | rfl | rfl
  · rw [setResolution_getLsbD _ _ hi', if_neg (by omega)]
  · rw [toggleHeater_getLsbD _ hi', if_neg (by omega)]
  · rw [toggleOtp_getLsbD _ hi', if_neg (by omega)]

/-! ### The fields of a register byte -/

/-- RSEL's two bits, put back in their places (R76). -/
theorem and_resMask_eq_urRsel (cur : Byte) : cur &&& 0x81 =
    (((urRsel cur).extractLsb' 1 1).setWidth 8 <<< 7) ||| ((urRsel cur).extractLsb' 0 1).setWidth 8 := by
  have hhigh : (urRsel cur).extractLsb' 1 1 = BitVec.ofBool (cur.getLsbD 7) := BitVec.extractLsb'_append_eq_left
  have hlow : (urRsel cur).extractLsb' 0 1 = BitVec.ofBool (cur.getLsbD 0) := BitVec.extractLsb'_append_eq_right
  rw [hhigh, hlow]
  refine BitVec.eq_of_getLsbD_eq fun i hi => ?_
  interval_cases i <;> simp

/-- DEC reads bits 7, 6, 2, 1 and 0 and no other: bits 5:3 are not decoded. -/
theorem writeFld_congr {c d : Byte} (h : c &&& 0xC7 = d &&& 0xC7) (b : Block) : b.writeFld c = b.writeFld d := by
  have h7 : c.getLsbD 7 = d.getLsbD 7 := getLsbD_of_masked h rfl
  have h6 : c.getLsbD 6 = d.getLsbD 6 := getLsbD_of_masked h rfl
  have h2 : c.getLsbD 2 = d.getLsbD 2 := getLsbD_of_masked h rfl
  have h1 : c.getLsbD 1 = d.getLsbD 1 := getLsbD_of_masked h rfl
  have h0 : c.getLsbD 0 = d.getLsbD 0 := getLsbD_of_masked h rfl
  simp only [Block.writeFld, urRsel, urEob, urHtr, urOtpd, urOtpen, Config.eobBit, h7, h6, h2, h1, h0]

/-- DEC of a SETRES result: the requested resolution code, and the other fields of `CUR`. -/
theorem writeFld_setResolution (b : Block) (c a : Byte) : b.writeFld (setResolution c a) =
    { b.writeFld c with rsel := BitVec.ofBool (a.getLsbD 7) ++ BitVec.ofBool (a.getLsbD 0) } := by
  simp [Block.writeFld, urRsel, urEob, urHtr, urOtpd, urOtpen, Config.eobBit, setResolution_getLsbD,
    -BitVec.getLsbD_eq_getElem]

/-- DEC of a TGLHTR result: the heater inverted. -/
theorem writeFld_toggleHeater (b : Block) (c : Byte) :
    b.writeFld (toggleHeater c) = { b.writeFld c with htr := !urHtr c } := by
  simp [Block.writeFld, urRsel, urEob, urHtr, urOtpd, urOtpen, Config.eobBit, toggleHeater_getLsbD,
    -BitVec.getLsbD_eq_getElem]

/-- DEC of a TGLOTP result: both readings of bit 1 inverted. -/
theorem writeFld_toggleOtp (b : Block) (c : Byte) :
    b.writeFld (toggleOtp c) = { b.writeFld c with otpd := !urOtpd c, otpen := !urOtpen c } := by
  simp [Block.writeFld, urRsel, urEob, urHtr, urOtpd, urOtpen, Config.eobBit, toggleOtp_getLsbD,
    -BitVec.getLsbD_eq_getElem]

/-- FLDW after a DEC shows the register byte alone, so the worked example of R76 holds whatever stood there before. -/
theorem fldWord_writeFld_urDefault (b : Block) : fldWord (b.writeFld 0x02) = 0x000010 :=
  calc fldWord (b.writeFld 0x02) = fldWord (Block.reset.writeFld 0x02) := rfl
    _ = 0x000010 := by decide

/-- TGLOTP on the sensor's reset value enables the OTP reload (R79, 90_conflicts.md C1). -/
theorem urOtpen_toggleOtp_urDefault : urOtpen (toggleOtp 0x02) = true := by
  decide

/-- Settles O15: bit by bit for the encoders, and field by field for DEC of what they give. -/
theorem codecLaws : Obligations.CodecLaws := by
  refine ⟨fun _ _ => ⟨rfl, rfl, rfl⟩, fun c => ⟨toggleHeater_toggleHeater c, toggleOtp_toggleOtp c⟩,
    fun c => ⟨toggleHeater_toggleOtp c, toggleOtp_toggleHeater c⟩, setResolution_setResolution,
    fun c a => ⟨setResolution_toggleHeater c a, setResolution_toggleOtp c a⟩,
    fun c a s => ⟨_, _, _, _, rfl, rfl, rfl, rfl, writeFld_setResolution s.block c a,
      writeFld_toggleHeater s.block c, writeFld_toggleOtp s.block c⟩,
    fun c a x hx => ⟨encoders_keep_bits_6_to_3 hx (by decide), ?_⟩⟩
  refine BitVec.eq_of_getLsbD_eq fun i hi => ?_
  rw [BitVec.getLsbD_extractLsb', BitVec.getLsbD_extractLsb', encoders_keep_bits_6_to_3 hx (by omega)]

end Sys2Proof.Machine
end

section
/-!
PROOF. The four codec operations (41_codec.md R75 to R80): the words of their operation codes, their effects, and what
each leaves unchanged.
-/

namespace Sys2Proof.Machine

/-! ### The words of operation codes 2 to 5 -/

/-- Bits 27:16 are the reserved fields `Z1` and `Z2` (30_encoding.md R50, R51). -/
theorem bits_27_to_16_eq_zero_iff (w : Word) : w.extractLsb' 16 12 = 0 ↔ fieldZ1 w = 0 ∧ fieldZ2 w = 0 := by
  have happend : w.extractLsb' 16 12 = fieldZ1 w ++ fieldZ2 w :=
    (BitVec.extractLsb'_append_extractLsb'_eq_extractLsb' (len₁ := 8) (len₂ := 4) rfl).symm
  refine ⟨fun h => ⟨?_, ?_⟩, fun ⟨hz1, hz2⟩ => by rw [happend, hz1, hz2]; rfl⟩
  · exact BitVec.extractLsb'_append_eq_left.symm.trans (congrArg (·.extractLsb' 8 4) (happend.symm.trans h))
  · exact BitVec.extractLsb'_append_eq_right.symm.trans (congrArg (·.extractLsb' 0 8) (happend.symm.trans h))

/-- A word of `OPC` 3 is the word of a SETRES, or has a reserved field set. -/
theorem decode_of_opc_setres {w : Word} (hopc : fieldOpc w = 0x3) : decode w =
    if w.extractLsb' 16 12 ≠ 0 then .reject .reservedField else .accept (.setres (fieldCur w) (fieldArg w)) := by
  simp only [ne_eq, bits_27_to_16_eq_zero_iff]
  split
  next hset =>
    refine decode_eq_reservedField_iff.mpr ⟨by rw [hopc]; rfl, ?_⟩
    rcases not_and_or.mp hset with hz1 | hz2
    · exact .inl hz1
    · exact .inr (.inl ⟨by rw [hopc]; decide, hz2⟩)
  next hclear =>
    obtain ⟨hz1, hz2⟩ := not_not.mp hclear
    exact decode_eq_accept_iff.mpr (formatR2_of_fields hopc hz1 hz2)

/-- A word whose operation code has format R1 is the word of that operation, or has a reserved field set. -/
theorem decode_of_opc_formatR1 {opc : BitVec 4} (hR1 : opc ∈ ([0x2, 0x4, 0x5] : List (BitVec 4)))
    {op : Byte → Instr} (hop : ∀ cur, encode (op cur) = formatR1 opc cur) {w : Word} (hopc : fieldOpc w = opc) :
    decode w = if w.extractLsb' 16 12 ≠ 0 ∨ w.extractLsb' 0 8 ≠ 0 then .reject .reservedField
      else .accept (op (fieldCur w)) := by
  simp only [ne_eq, bits_27_to_16_eq_zero_iff]
  split
  next hset =>
    have hR1' : fieldOpc w ∈ ([0x2, 0x3, 0x4, 0x5] : List (BitVec 4)) :=
      (by decide : ([0x2, 0x4, 0x5] : List (BitVec 4)) ⊆ [0x2, 0x3, 0x4, 0x5]) (hopc.symm ▸ hR1)
    have hdef : definedOpc (fieldOpc w) = true := (definedOpc_eq_true_iff _).mpr (List.mem_cons_of_mem _ hR1')
    refine decode_eq_reservedField_iff.mpr ⟨hdef, ?_⟩
    rcases hset with hset | hz3
    · rcases not_and_or.mp hset with hz1 | hz2
      · exact .inl hz1
      · exact .inr (.inl ⟨hR1', hz2⟩)
    · exact .inr (.inr ⟨hopc.symm ▸ hR1, hz3⟩)
  next hclear =>
    obtain ⟨hz12, hz3⟩ := not_or.mp hclear
    obtain ⟨hz1, hz2⟩ := not_not.mp hz12
    exact decode_eq_accept_iff.mpr ((hop _).trans (formatR1_of_fields hopc hz1 hz2 (not_not.mp hz3)))

/-! ### The effects -/

/-- DEC leaves the five fields and the mark, and nothing else changed. -/
theorem exec_dec (cur : Byte) (s : State) :
    exec (.dec cur) s = .next { s with block := s.block.writeFld cur, answer := .resp 0b00 } := rfl

/-- SETRES leaves the merged byte and the mark, and nothing else changed. -/
theorem exec_setres (cur arg : Byte) (s : State) :
    exec (.setres cur arg) s = .next { s with
      block := { s.block with res := (cur &&& 0x7E) ||| (arg &&& 0x81), rv := true }
      answer := .resp 0b00 } := rfl

/-- TGLHTR leaves its byte and the mark, and nothing else changed. -/
theorem exec_tglhtr (cur : Byte) (s : State) :
    exec (.tglhtr cur) s = .next { s with block := s.block.writeRes (toggleHeater cur), answer := .resp 0b00 } := rfl

/-- TGLOTP leaves its byte and the mark, and nothing else changed. -/
theorem exec_tglotp (cur : Byte) (s : State) :
    exec (.tglotp cur) s = .next { s with block := s.block.writeRes (toggleOtp cur), answer := .resp 0b00 } := rfl

/-- The write of `RES` and `RV` leaves the other three groups. -/
theorem writeRes_keeps_other_groups (b : Block) (r : Byte) : (b.writeRes r).fldGroup = b.fldGroup ∧
    (b.writeRes r).crcGroup = b.crcGroup ∧ (b.writeRes r).illGroup = b.illGroup := ⟨rfl, rfl, rfl⟩

/-- The write of the five fields and `FV` leaves the other three groups. -/
theorem writeFld_keeps_other_groups (b : Block) (c : Byte) : (b.writeFld c).resGroup = b.resGroup ∧
    (b.writeFld c).crcGroup = b.crcGroup ∧ (b.writeFld c).illGroup = b.illGroup := ⟨rfl, rfl, rfl⟩

/-! ### The obligations on the operations -/

/-- Settles O2: the word is format R1's, the fields are those of the register byte, and bits 5:3 are not among them. -/
theorem decUnpacksRegisterByte : Obligations.DecUnpacksRegisterByte := by
  refine ⟨formatR1_eq_or 0x2, exec_dec, and_resMask_eq_urRsel,
    fun w => decode_of_opc_formatR1 (by decide) (fun _ => rfl), fun c d s h => ?_,
    fun s => ⟨_, _, _, exec_dec _ s, rfl, exec_dec _ s, rfl, exec_dec _ s, rfl, ?_⟩, rfl⟩
  · rw [exec_dec, exec_dec, writeFld_congr h]
  · exact fldWord_writeFld_urDefault s.block

/-- Settles O3: each bit of the result has one source, so the other operand's bit there has no effect. -/
theorem setresMergesResolutionBits : Obligations.SetresMergesResolutionBits := by
  refine ⟨formatR2_eq_or 0x3, exec_setres, fun w => decode_of_opc_setres, fun cur arg => ⟨?_, ?_, ?_, ?_⟩,
    fun cur s => ⟨?_, ?_⟩, fun cur arg arg' s h => ?_, fun cur cur' arg s h => ?_, fun _ _ => setResolution_eq_self,
    fun cur arg => setResolution_setResolution cur arg arg, by decide, by decide, by decide⟩
  · exact setResolution_getLsbD cur arg (by decide)
  · exact setResolution_getLsbD cur arg (by decide)
  · refine BitVec.eq_of_getLsbD_eq fun i hi => ?_
    rw [BitVec.getLsbD_extractLsb', BitVec.getLsbD_extractLsb', setResolution_getLsbD _ _ (by omega), if_neg (by omega)]
  · exact setResolution_and_resMask cur arg
  · exact exec_setres cur 0xFF s
  · exact exec_setres cur 0x7E s
  · rw [exec_setres, exec_setres, h]
  · rw [exec_setres, exec_setres, h]

/-- Settles O4: the word is format R1's, and the effect an XOR with bit 2. -/
theorem tglhtrInvertsHeaterBit : Obligations.TglhtrInvertsHeaterBit :=
  ⟨formatR1_eq_or 0x4, exec_tglhtr, fun _ => decode_of_opc_formatR1 (by decide) (fun _ => rfl),
    fun cur _ => toggleHeater_getLsbD cur,
    fun cur s => ⟨_, _, exec_tglhtr cur s, exec_tglhtr _ _, toggleHeater_toggleHeater cur⟩,
    by decide, by decide, by decide⟩

/-- Settles O5: the word is format R1's, and the effect an XOR with bit 1. -/
theorem tglotpInvertsReloadDisabledBit : Obligations.TglotpInvertsReloadDisabledBit :=
  ⟨formatR1_eq_or 0x5, exec_tglotp, fun _ => decode_of_opc_formatR1 (by decide) (fun _ => rfl),
    fun cur _ => toggleOtp_getLsbD cur,
    fun cur s => ⟨_, _, exec_tglotp cur s, exec_tglotp _ _, toggleOtp_toggleOtp cur⟩,
    fun s => ⟨_, _, exec_tglotp 0x02 s, rfl, exec_dec _ _,
      (Block.writeFld_otpen _ _).trans urOtpen_toggleOtp_urDefault⟩,
    by decide, by decide, by decide⟩

/-- Settles O6: the three bit tables, side by side. -/
theorem encodersSelectEachResultBit : Obligations.EncodersSelectEachResultBit := fun cur arg s =>
  ⟨_, _, _, exec_setres cur arg s, exec_tglhtr cur s, exec_tglotp cur s,
    fun _ hi => ⟨setResolution_getLsbD cur arg hi, toggleHeater_getLsbD cur hi, toggleOtp_getLsbD cur hi⟩⟩

/-- Settles O7: each operation completes with the write of its own group. -/
theorem codecOperationsWriteOneGroup : Obligations.CodecOperationsWriteOneGroup := by
  intro cur arg s
  obtain ⟨hres, hcrc, hill⟩ := writeFld_keeps_other_groups s.block cur
  refine ⟨_, _, _, _, exec_dec cur s, exec_setres cur arg s, exec_tglhtr cur s, exec_tglotp cur s, hres, hcrc, hill,
    fun y hy => ?_, fun y hy => ?_⟩ <;> simp only [List.mem_cons, List.not_mem_nil, or_false] at hy
  · rcases hy with rfl | rfl | rfl
    · exact writeRes_keeps_other_groups s.block (setResolution cur arg)
    · exact writeRes_keeps_other_groups s.block (toggleHeater cur)
    · exact writeRes_keeps_other_groups s.block (toggleOtp cur)
  · rcases hy with rfl | rfl | rfl | rfl <;> exact ⟨rfl, rfl, rfl⟩

end Sys2Proof.Machine
end

section
/-!
PROOF. The rejection, the block's one exception (60_exceptions.md R90 to R97): how many words each cause takes, what a
word leaves of a rejection before it, and the steps that are no word.
-/

namespace Sys2Proof.Machine

/-! ### How many words each cause takes -/

/-- A word is its operation code above its other 28 bits (30_encoding.md R48). -/
def opcEquiv : Word ≃ BitVec 4 × BitVec 28 where
  toFun w := (fieldOpc w, w.extractLsb' 0 28)
  invFun p := p.1 ++ p.2
  left_inv _ := (BitVec.extractLsb'_append_extractLsb'_eq_extractLsb' (len₁ := 28) (len₂ := 4) rfl).trans
    BitVec.extractLsb'_eq_self
  right_inv _ := Prod.ext BitVec.extractLsb'_append_eq_left BitVec.extractLsb'_append_eq_right

/-- The words whose operation code is one of some: each code with any other 28 bits. -/
theorem natCard_words_of_opc (P : BitVec 4 → Prop) :
    Nat.card { w : Word // P (fieldOpc w) } = Nat.card { opc : BitVec 4 // P opc } * 2 ^ 28 := by
  rw [← natCard_bitVec 28, ← Nat.card_prod]
  exact Nat.card_congr ((opcEquiv.subtypeEquiv fun _ => Iff.rfl).trans Equiv.prodSubtypeFstEquivSubtypeProd)

/-- Eleven of the sixteen operation codes are not in use (30_encoding.md R53). -/
theorem natCard_undefined_opcs : Nat.card { opc : BitVec 4 // definedOpc opc = false } = 11 := by
  rw [Nat.card_eq_fintype_card]
  decide

theorem cause?_decode_eq_none_iff (w : Word) : (decode w).cause? = none ↔ (decode w).instr?.isSome = true := by
  cases decode w <;> simp [Decoded.cause?, Decoded.instr?]

theorem cause?_decode_eq_some_iff {w : Word} {c : Cause} : (decode w).cause? = some c ↔ decode w = .reject c := by
  cases decode w <;> simp [Decoded.cause?]

theorem natCard_accepted_words : Nat.card { w : Word // (decode w).cause? = none } = 16843520 :=
  (Nat.card_congr (Equiv.subtypeEquivRight cause?_decode_eq_none_iff)).trans natCard_legal_words

/-- An operation code that is not in use is rejected with any other 28 bits (60_exceptions.md R92). -/
theorem natCard_illegalOpcode_words :
    Nat.card { w : Word // (decode w).cause? = some .illegalOpcode } = 11 * 2 ^ 28 := by
  have hopc (w : Word) : (decode w).cause? = some .illegalOpcode ↔ definedOpc (fieldOpc w) = false :=
    cause?_decode_eq_some_iff.trans decode_eq_illegalOpcode_iff
  rw [Nat.card_congr (Equiv.subtypeEquivRight hopc), natCard_words_of_opc (definedOpc · = false),
    natCard_undefined_opcs]

/-- Every word is accepted or rejected with one of the two causes. -/
theorem natCard_words_by_cause :
    Nat.card { w : Word // (decode w).cause? = none } +
      (Nat.card { w : Word // (decode w).cause? = some .illegalOpcode } +
        Nat.card { w : Word // (decode w).cause? = some .reservedField }) = 2 ^ 32 := by
  have hdisjoint : Disjoint { w : Word | (decode w).cause? = some .illegalOpcode }
      { w : Word | (decode w).cause? = some .reservedField } :=
    Set.disjoint_left.mpr fun _ hill hres => nomatch hill.symm.trans hres
  have hcompl : { w : Word | (decode w).cause? = none }ᶜ =
      { w | (decode w).cause? = some .illegalOpcode } ∪ { w | (decode w).cause? = some .reservedField } := by
    ext w
    rcases hc : (decode w).cause? with _ | _ | _ <;> simp [hc]
  have hcount := Set.ncard_add_ncard_compl { w : Word | (decode w).cause? = none }
  rwa [hcompl, Set.ncard_union_eq hdisjoint, natCard_bitVec] at hcount

/-- Settles O26: the words of ReservedField are those the other two outcomes leave, and `exec` completes. -/
theorem rejectionIsTheOneException : Obligations.RejectionIsTheOneException := by
  refine ⟨natCard_accepted_words, natCard_illegalOpcode_words, ?_, rfl, rfl, fun c => (causeCode_ne c).2,
    fun i s => ⟨_, exec_eq_complete_perform i s, rfl, perform_illGroup s.block i⟩⟩
  have hcount := natCard_words_by_cause
  rw [natCard_accepted_words, natCard_illegalOpcode_words] at hcount
  omega

/-! ### A word, and a word after a rejection -/

/-- Settles O24: a rejected word is raised, and an accepted one runs an operation, none of which touches `ILL` and
`ECAUSE`. -/
theorem rejectionIsPrecise : Obligations.RejectionIsPrecise := by
  refine ⟨fun s w rest c hr hm hd => ?_, fun s w rest i hr hm hd => ?_⟩
  · rw [step_of_reject hr hm hd]
    cases c <;> rfl
  · obtain ⟨hill, hecause⟩ := Prod.ext_iff.mp (perform_illGroup s.block i)
    exact ⟨_, (step_of_accept hr hm hd).trans (exec_eq_complete_perform i _), rfl, hill, hecause⟩

/-- An operation neither reads nor writes what a rejection records (60_exceptions.md R91, R95). -/
theorem perform_record (b : Block) (c : Cause) (i : Instr) : (b.record c).perform i = (b.perform i).record c := by
  cases i <;> rfl

/-- A later rejection overwrites an earlier one (60_exceptions.md R95). -/
theorem Block.record_record (b : Block) (c c' : Cause) : (b.record c).record c' = b.record c' := rfl

/-- Settles O27: the rejection leaves the next word pending, and what it records commutes with the operation or is
overwritten; a step that is no reset takes a word or leaves the elements. -/
theorem legalWordAfterRejectionRunsNormally : Obligations.LegalWordAfterRejectionRunsNormally := by
  refine ⟨fun s w w' rest c i hr hm hd hd' => ?_, fun s w w' rest c c' hr hm hd hd' => ?_, fun s t hs hst hill => ?_⟩
  · have hnext := step_of_accept
      (s := { s with moves := .issue w' :: rest, block := s.block.record c, answer := .resp (causeCode c) }) hr rfl hd'
    refine ⟨_, _, _, step_of_reject hr hm hd, hnext.trans (exec_eq_complete_perform i _),
      exec_eq_complete_perform i _, ?_⟩
    exact congrArg (fun b => { s with moves := rest, block := b, answer := .resp 0b00 }) (perform_record s.block c i)
  · exact ⟨_, _, step_of_reject hr hm hd, step_of_reject hr rfl hd', s.block.record_record c c', rfl⟩
  · rcases step_block_of_not_resetting hs hst with hb | ⟨w, hb⟩
    · rw [hb, hill]
    · obtain ⟨-, -, -, hkeeps⟩ := s.block.take_keeps_marks w
      rw [hb, hkeeps hill]

/-! ### Every step, and the step without a move -/

/-- Settles O28. -/
theorem stepIsTotal : Obligations.StepIsTotal := step_total

/-- With no move pending the step only holds the reset (60_exceptions.md R97, R101, 70_reset_and_hazards.md R105). -/
theorem step_of_nil {s : State} (hm : s.moves = []) : step s = .next s.held := by
  simp only [step, pending_nil hm, stepIdle]

/-- Settles O35: the held reset is the state itself, or the state with the reset values. -/
theorem nothingHappensWithoutMove : Obligations.NothingHappensWithoutMove := by
  refine ⟨fun s hr hm => ?_, fun s hr hm => ?_⟩
  · rw [step_of_nil hm, held_of_released hr]
  · rw [step_of_nil hm, held_of_asserted hr]
    rfl

end Sys2Proof.Machine
end

section
/-!
PROOF. Reads, reset and the result groups (70_reset_and_hazards.md R105 to R117): the block told from its read words, a
read after a word, each step while `rst` is asserted, and the groups a word leaves.
-/

namespace Sys2Proof.Machine

/-! ### A zero raw value -/

/-- Settles O14: the CRC of the zero raw value is 0x00. -/
theorem zeroRawVerifiesOnlyZeroChecksum : Obligations.ZeroRawVerifiesOnlyZeroChecksum := by
  intro chk s
  have hverify : crcRemainder 0x0000 chk = 0 ↔ chk = 0x00 := crc8_zero ▸ crcRemainder_eq_zero_iff 0x0000 chk
  exact ⟨_, exec_crcv 0x0000 chk s, decide_eq_true_iff.trans hverify, rfl, rfl⟩

/-! ### The block told from its read words -/

/-- The thirteen elements at their places in the four read words (10_state.md R17). -/
def Block.ofReadWords (f : BitVec 2 → ReadWord) : Block where
  rem := f 1
  crcok := (f 0).getLsbD 0
  cv := (f 0).getLsbD 1
  res := (f 2).extractLsb' 0 8
  rv := (f 0).getLsbD 2
  rsel := (f 3).extractLsb' 0 2
  eob := (f 3).getLsbD 2
  htr := (f 3).getLsbD 3
  otpd := (f 3).getLsbD 4
  otpen := (f 3).getLsbD 5
  fv := (f 0).getLsbD 3
  ill := (f 0).getLsbD 4
  ecause := (f 0).extractLsb' 5 2

theorem Block.ofReadWords_readWord (b : Block) : Block.ofReadWords (readWord b) = b := by
  simp only [Block.ofReadWords, readWord_zero, readWord_one, readWord_two, readWord_three, statusWord_fields,
    resWord_fields, fldWord_fields]

/-- Settles O31: the block is told from its read words, so it is the same block where they are the same. -/
theorem readWordsDetermineBlock : Obligations.ReadWordsDetermineBlock := by
  intro b c h
  calc b = Block.ofReadWords (readWord b) := b.ofReadWords_readWord.symm
    _ = Block.ofReadWords (readWord c) := congrArg Block.ofReadWords (funext h)
    _ = c := c.ofReadWords_readWord

/-! ### A read after a word -/

/-- Settles O32: the word leaves the block `Block.take` gives, with `rst` released, and the read shows that block. -/
theorem readAfterWordSeesItsWrites : Obligations.ReadAfterWordSeesItsWrites := by
  intro s w raddr rest hr hm
  obtain ⟨t, hstep, htb, htr, htm⟩ := step_of_issue hr hm
  obtain ⟨u, hstep', hub, -, -, hua⟩ := step_read_next htm
  rw [held_of_released htr] at hub hua
  refine ⟨t, u, hstep, hstep', hub, ?_⟩
  rw [hua, htb]
  rcases hd : decode w with i | c
  · rw [Block.take_of_accept hd]
    cases i <;> rfl
  · rw [Block.take_of_reject hd]
    rfl

/-! ### Reset -/

section
variable {s : State} {rest : List HostMove}

/-- Asserting `rst` leaves nothing of the state but the moves to come. -/
theorem step_assert_eq (hm : s.moves = .assertRst :: rest) :
    step s = .next { block := Block.reset, rst := true, moves := rest, answer := .nothing } :=
  step_of_assert hm

/-- Releasing `rst` where it is asserted leaves the reset values. -/
theorem step_release_eq (hr : s.rst = true) (hm : s.moves = .releaseRst :: rest) :
    step s = .next { block := Block.reset, rst := false, moves := rest, answer := .nothing } := by
  rw [step_of_release hm, held_of_asserted hr]
  rfl

/-- A word presented while `rst` is asserted is passed over (log 3). -/
theorem step_untaken_eq {w : Word} (hr : s.rst = true) (hm : s.moves = .issue w :: rest) :
    step s = .next { block := Block.reset, rst := true, moves := rest, answer := .nothing } := by
  rw [step_of_untaken hr hm, held_of_asserted hr, ← hr]
  rfl

/-- While `rst` is asserted every step leaves the reset values, and only a release ends the reset. -/
theorem step_of_asserted (hr : s.rst = true) : ∃ t : State, step s = .next t ∧ t.block = Block.reset ∧
    t.rst = (s.moves.head? != some .releaseRst) := by
  rcases hm : s.moves with _ | ⟨w | raddr | _ | _, rest⟩
  · exact ⟨_, step_of_nil hm, by simp [hr], by simp [hr]⟩
  · exact ⟨_, step_untaken_eq hr hm, rfl, rfl⟩
  · obtain ⟨t, hstep, htb, htr, -⟩ := step_read_next hm
    exact ⟨t, hstep, by simp [htb, hr], by simp [htr, hr]⟩
  · exact ⟨_, step_assert_eq hm, rfl, rfl⟩
  · exact ⟨_, step_release_eq hr hm, rfl, rfl⟩

end

/-- A word that is taken keeps `ECAUSE` or records a cause, and no cause has code 0b00 (60_exceptions.md R90, R91). -/
theorem Block.take_ecause_ne_zero {b : Block} (h : b.ecause ≠ 0b00) (w : Word) : (b.take w).ecause ≠ 0b00 := by
  rcases hd : decode w with i | c
  · obtain ⟨-, hecause⟩ := Prod.ext_iff.mp (perform_illGroup b i)
    rw [Block.take_of_accept hd]
    exact hecause.trans_ne h
  · rw [Block.take_of_reject hd]
    exact (causeCode_ne c).1

/-- Settles O34: the steps of a reset, and the marks and the cause under a word that is taken. -/
theorem resetRestoresEveryElement : Obligations.ResetRestoresEveryElement := by
  refine ⟨fun _ _ => step_assert_eq, fun _ _ => step_release_eq, fun _ _ _ => step_untaken_eq,
    fun _ => step_of_asserted, fun s rest hm => ⟨_, step_assert_eq hm, step_release_eq rfl rfl⟩, fun s t hs hst => ?_⟩
  rcases step_block_of_not_resetting hs hst with hb | ⟨w, hb⟩
  · simp [hb]
  · obtain ⟨hcv, hrv, hfv, hill⟩ := s.block.take_keeps_marks w
    rw [hb]
    exact ⟨hcv, hrv, hfv, hill, fun h => Block.take_ecause_ne_zero h w⟩

/-! ### The result groups under a word -/

/-- The operation code of an accepted word is its operation's (30_encoding.md R53). -/
theorem fieldOpc_of_decode {w : Word} {i : Instr} (hd : decode w = .accept i) : fieldOpc w = opcOf i :=
  encode_of_decode hd ▸ fieldOpc_encode i

section
variable {i : Instr} (b : Block)

theorem perform_crcGroup (h : opcOf i ≠ 0x1) : (b.perform i).crcGroup = b.crcGroup := by
  cases i with
  | crcv _ _ => exact absurd rfl h
  | dec _ | setres _ _ | tglhtr _ | tglotp _ => rfl

theorem perform_fldGroup (h : opcOf i ≠ 0x2) : (b.perform i).fldGroup = b.fldGroup := by
  cases i with
  | dec _ => exact absurd rfl h
  | crcv _ _ | setres _ _ | tglhtr _ | tglotp _ => rfl

theorem perform_resGroup (h3 : opcOf i ≠ 0x3) (h4 : opcOf i ≠ 0x4) (h5 : opcOf i ≠ 0x5) :
    (b.perform i).resGroup = b.resGroup := by
  cases i with
  | crcv _ _ | dec _ => rfl
  | setres _ _ => exact absurd rfl h3
  | tglhtr _ => exact absurd rfl h4
  | tglotp _ => exact absurd rfl h5

end

/-- A rejection leaves the three result groups (60_exceptions.md R91). -/
theorem record_keeps_result_groups (b : Block) (c : Cause) : (b.record c).crcGroup = b.crcGroup ∧
    (b.record c).fldGroup = b.fldGroup ∧ (b.record c).resGroup = b.resGroup := ⟨rfl, rfl, rfl⟩

/-- Settles O36: an accepted word's operation code tells the group it writes, and a rejected word writes none. -/
theorem groupsDoNotDisturbEachOther : Obligations.GroupsDoNotDisturbEachOther := by
  intro s w rest hr hm
  obtain ⟨t, hstep, htb, -, -⟩ := step_of_issue hr hm
  refine ⟨t, hstep, ?_⟩
  rcases hd : decode w with i | c
  · have hopc : w.extractLsb' 28 4 = opcOf i := fieldOpc_of_decode hd
    rw [htb, Block.take_of_accept hd, hopc]
    exact ⟨perform_crcGroup s.block, perform_fldGroup s.block, perform_resGroup s.block, fun hnone => nomatch hnone⟩
  · rw [htb, Block.take_of_reject hd]
    obtain ⟨hcrc, hfld, hres⟩ := record_keeps_result_groups s.block c
    exact ⟨fun _ => hcrc, fun _ => hfld, fun _ _ _ => hres, fun _ => ⟨hcrc, hfld, hres⟩⟩

end Sys2Proof.Machine
end

section
/-!
PROOF. The seven worked words of 30_encoding.md section 9.
-/

namespace Sys2Proof.Machine

/-- Settles O20: the first five words are the words the encoder gives; the sixth is a DEC with a bit set in `Z2`; the
operation code of the seventh is not in use. -/
theorem workedWordsDecode : Obligations.WorkedWordsDecode := by
  have hz2 : ReservedSet 0x20010200 := .inr (.inl ⟨by decide, by decide⟩)
  exact ⟨decode_encode (.crcv 0x683A 0x7C), decode_encode (.dec 0x02), decode_encode (.setres 0x02 0x81),
    decode_encode (.tglhtr 0x02), decode_encode (.tglotp 0x02), decode_eq_reservedField_iff.mpr ⟨rfl, hz2⟩,
    decode_of_undefined_opc rfl⟩

end Sys2Proof.Machine
end
